-- ==== Sys2Proof/Word.lean ====
section
/-! DEFINITION. The value types of the spec's notation (00_scope.md R6, R7): bytes, 32-bit words,
byte strings, 16-byte blocks and 32-byte digests. -/

namespace Sys2Proof

/-- "A *byte* is an unsigned 8-bit value 0..255" (R6). -/
abbrev Byte := BitVec 8

/-- "A *word* is an unsigned 32-bit value" (R6). -/
abbrev Word := BitVec 32

/-- "A *block* is a byte string of length 16" (R7); byte `i` of block `S` is `S[i]`. -/
abbrev Block := Vector Byte 16

/-- What `H256` yields: a 32-byte string (R4). -/
abbrev Digest := Vector Byte 32

/-- A byte string of any length, index 0 first (R7). -/
abbrev Bytes := List Byte

end Sys2Proof
end

