-- ==== Sys2Proof/Syntax.lean ====
section
/-! DEFINITION. The commands: one constructor of `Instr` per row of the opcode map (30_encoding.md
R84), the names of the rows (`Opcode`), their classes (R83), the field record of format C (R81) and
the source lines of the assembler (R88, R89). -/

namespace Sys2Proof

/-- A block register number 0..3 (R82). -/
abbrev VReg := Fin 4

/-- The commands of R84. `vd`/`vs` are destination and source block registers, `r` a round index. -/
inductive Instr where
  | nop
  | gfmul (a b : Byte)
  | sbox (x : Byte)
  | isbox (y : Byte)
  | mov (vd vs : VReg)
  | sub (vd vs : VReg)
  | isub (vd vs : VReg)
  | rot (vd vs : VReg)
  | irot (vd vs : VReg)
  | mix (vd vs : VReg)
  | imix (vd vs : VReg)
  | xor (vd vs : VReg)
  | xkey (vd vs : VReg)
  | xrk (vd vs : VReg) (r : Byte)
  | rkey (vd : VReg) (r : Byte)
  | round (vd vs : VReg) (r : Byte)
  | iround (vd vs : VReg) (r : Byte)
  | encb (vd vs : VReg)
  | decb (vd vs : VReg)
  | kdf
  | cbcenc
  | cbcdec
  | valid
deriving DecidableEq, Repr

/-- The row names of R84. -/
inductive Opcode where
  | nop | gfmul | sbox | isbox
  | mov | sub | isub | rot | irot | mix | imix | xor | xkey | xrk | rkey | round | iround
  | encb | decb | kdf | cbcenc | cbcdec | valid
deriving DecidableEq, Repr

/-- The classes of R83: which fields a command uses. -/
inductive CmdClass where
  | n | i2 | i1 | r2 | r2i | r1i
deriving DecidableEq, Repr

/-- The six fields of format C (R81). -/
structure Fields where
  op : BitVec 8
  vd : BitVec 2
  vs : BitVec 2
  rsv : BitVec 4
  immA : Byte
  immB : Byte
deriving DecidableEq, Repr

/-- A mnemonic of a source line: a command (R88) or one of the two pseudo-instructions (R89). -/
inductive Mnemonic where
  | cmd (op : Opcode)
  | clr
  | whiten
deriving DecidableEq, Repr

/-- An operand as written: `v<n>` or a number (R88). -/
inductive Operand where
  | reg (n : Nat)
  | imm (n : Nat)
deriving DecidableEq, Repr

/-- One line of the assembler: "the mnemonic, then operands" (R88). -/
structure SourceLine where
  mnemonic : Mnemonic
  operands : List Operand
deriving DecidableEq, Repr

/-- The class of a row (R84). -/
def Opcode.cmdClass : Opcode → CmdClass
  | .nop | .kdf | .cbcenc | .cbcdec | .valid => .n
  | .gfmul => .i2
  | .sbox | .isbox => .i1
  | .mov | .sub | .isub | .rot | .irot | .mix | .imix | .xor | .xkey | .encb | .decb => .r2
  | .xrk | .round | .iround => .r2i
  | .rkey => .r1i

/-- The row an instruction belongs to. -/
def Instr.opcode : Instr → Opcode
  | .nop => .nop
  | .gfmul _ _ => .gfmul
  | .sbox _ => .sbox
  | .isbox _ => .isbox
  | .mov _ _ => .mov
  | .sub _ _ => .sub
  | .isub _ _ => .isub
  | .rot _ _ => .rot
  | .irot _ _ => .irot
  | .mix _ _ => .mix
  | .imix _ _ => .imix
  | .xor _ _ => .xor
  | .xkey _ _ => .xkey
  | .xrk _ _ _ => .xrk
  | .rkey _ _ => .rkey
  | .round _ _ _ => .round
  | .iround _ _ _ => .iround
  | .encb _ _ => .encb
  | .decb _ _ => .decb
  | .kdf => .kdf
  | .cbcenc => .cbcenc
  | .cbcdec => .cbcdec
  | .valid => .valid

end Sys2Proof
end

