-- ==== Sys2Proof/WellFormed.lean ====
section
/-! DEFINITION. The checks on written and encoded commands. Every term of `Instr` is well-formed: its
operand types are exactly as wide as the fields of the encoding. What can be ill-formed is a word
with a must-be-0 field that is not 0 (30_encoding.md R83) and a source line with an operand the
assembler refuses (R88). -/

namespace Sys2Proof

/-- "Fields a command does not use must be 0" (R83), row by row of its table. -/
def CmdClass.zeroFields (c : CmdClass) (f : Fields) : Bool :=
  match c with
  | .n => f.vd == 0 && f.vs == 0 && f.rsv == 0 && f.immA == 0 && f.immB == 0
  | .i2 => f.vd == 0 && f.vs == 0 && f.rsv == 0
  | .i1 => f.vd == 0 && f.vs == 0 && f.rsv == 0 && f.immB == 0
  | .r2 => f.rsv == 0 && f.immA == 0 && f.immB == 0
  | .r2i => f.rsv == 0 && f.immB == 0
  | .r1i => f.vs == 0 && f.rsv == 0 && f.immB == 0

/-- "Register operands are `v0`..`v3`; immediates are ... in 0..255" (R88). -/
def Operand.wellFormed : Operand → Bool
  | .reg n => n < 4
  | .imm n => n < 256

/-- The operand kinds each class of command takes, destination first (R88). -/
def CmdClass.operandShape (c : CmdClass) (os : List Operand) : Bool :=
  match c, os with
  | .n, [] => true
  | .i2, [.imm _, .imm _] => true
  | .i1, [.imm _] => true
  | .r2, [.reg _, .reg _] => true
  | .r2i, [.reg _, .reg _, .imm _] => true
  | .r1i, [.reg _, .imm _] => true
  | _, _ => false

/-- A source line the assembler takes (R88); a pseudo-instruction has one register operand (R89). -/
def SourceLine.wellFormed (l : SourceLine) : Bool :=
  l.operands.all Operand.wellFormed &&
  match l.mnemonic, l.operands with
  | .cmd op, os => op.cmdClass.operandShape os
  | .clr, [.reg _] => true
  | .whiten, [.reg _] => true
  | _, _ => false

end Sys2Proof
end

