-- ==== Sys2Proof/Decode.lean ====
section
/-! DEFINITION. The decoder (30_encoding.md R91: the rows of R84, each a match and a mask), total on
all 2^32 words and answering `none` on an illegal one (R85); the encoder, from the fields of R81; the
assembler of R88 and R89; and `decodeTableWord`, the decoder on a table row's number. -/

namespace Sys2Proof

/-- A row of the opcode map: "A word w selects row X iff `(w and mask_X) = match_X`" (R84). -/
structure Row where
  op : Opcode
  pattern : Word
  mask : Word
deriving DecidableEq, Repr

/-- The rows of class N and the immediate classes (R84). -/
def scalarRows : List Row :=
  [⟨.nop, 0x00000000, 0xFFFFFFFF⟩,
   ⟨.gfmul, 0x00000001, 0x0000FFFF⟩,
   ⟨.sbox, 0x00000002, 0xFF00FFFF⟩,
   ⟨.isbox, 0x00000003, 0xFF00FFFF⟩]

/-- The rows on block registers (R84). -/
def blockRows : List Row :=
  [⟨.mov, 0x00000010, 0xFFFFF0FF⟩,
   ⟨.sub, 0x00000011, 0xFFFFF0FF⟩,
   ⟨.isub, 0x00000012, 0xFFFFF0FF⟩,
   ⟨.rot, 0x00000013, 0xFFFFF0FF⟩,
   ⟨.irot, 0x00000014, 0xFFFFF0FF⟩,
   ⟨.mix, 0x00000015, 0xFFFFF0FF⟩,
   ⟨.imix, 0x00000016, 0xFFFFF0FF⟩,
   ⟨.xor, 0x00000017, 0xFFFFF0FF⟩,
   ⟨.xkey, 0x00000018, 0xFFFFF0FF⟩,
   ⟨.xrk, 0x00000019, 0xFF00F0FF⟩,
   ⟨.rkey, 0x0000001A, 0xFF00FCFF⟩,
   ⟨.round, 0x0000001B, 0xFF00F0FF⟩,
   ⟨.iround, 0x0000001C, 0xFF00F0FF⟩,
   ⟨.encb, 0x00000020, 0xFFFFF0FF⟩,
   ⟨.decb, 0x00000021, 0xFFFFF0FF⟩]

/-- The rows of the key derivation and CBC commands (R84). -/
def messageRows : List Row :=
  [⟨.kdf, 0x00000030, 0xFFFFFFFF⟩,
   ⟨.cbcenc, 0x00000040, 0xFFFFFFFF⟩,
   ⟨.cbcdec, 0x00000041, 0xFFFFFFFF⟩,
   ⟨.valid, 0x00000042, 0xFFFFFFFF⟩]

/-- The opcode map of R84, 23 rows. -/
def opcodeTable : List Row := scalarRows ++ blockRows ++ messageRows

/-- `(w and mask_X) = match_X` (R84). -/
def Row.selects (r : Row) (w : Word) : Bool := w &&& r.mask == r.pattern

/-- The fields of a word (R81). -/
def fieldsOf (w : Word) : Fields where
  op := w.extractLsb' 0 8
  vd := w.extractLsb' 8 2
  vs := w.extractLsb' 10 2
  rsv := w.extractLsb' 12 4
  immA := w.extractLsb' 16 8
  immB := w.extractLsb' 24 8

/-- The word of a field record, "`BBBBBBBB AAAAAAAA 0000 SSDD OOOOOOOO`", bit 31 first (R81). -/
def wordOf (f : Fields) : Word := f.immB ++ f.immA ++ f.rsv ++ f.vs ++ f.vd ++ f.op

/-- "VD selects block register V[VD] ... (0 = V0 ... 3 = V3)" (R82). -/
def vregOf (n : BitVec 2) : VReg := n.toFin

/-- The two-bit field that names a block register (R82). -/
def vregField (v : VReg) : BitVec 2 := BitVec.ofFin v

/-- The instruction of a row with the operands a word's fields hold (R82). -/
def Opcode.build (op : Opcode) (f : Fields) : Instr :=
  match op with
  | .nop => .nop
  | .gfmul => .gfmul f.immA f.immB
  | .sbox => .sbox f.immA
  | .isbox => .isbox f.immA
  | .mov => .mov (vregOf f.vd) (vregOf f.vs)
  | .sub => .sub (vregOf f.vd) (vregOf f.vs)
  | .isub => .isub (vregOf f.vd) (vregOf f.vs)
  | .rot => .rot (vregOf f.vd) (vregOf f.vs)
  | .irot => .irot (vregOf f.vd) (vregOf f.vs)
  | .mix => .mix (vregOf f.vd) (vregOf f.vs)
  | .imix => .imix (vregOf f.vd) (vregOf f.vs)
  | .xor => .xor (vregOf f.vd) (vregOf f.vs)
  | .xkey => .xkey (vregOf f.vd) (vregOf f.vs)
  | .xrk => .xrk (vregOf f.vd) (vregOf f.vs) f.immA
  | .rkey => .rkey (vregOf f.vd) f.immA
  | .round => .round (vregOf f.vd) (vregOf f.vs) f.immA
  | .iround => .iround (vregOf f.vd) (vregOf f.vs) f.immA
  | .encb => .encb (vregOf f.vd) (vregOf f.vs)
  | .decb => .decb (vregOf f.vd) (vregOf f.vs)
  | .kdf => .kdf
  | .cbcenc => .cbcenc
  | .cbcdec => .cbcdec
  | .valid => .valid

/-- `decode(w)` of R91: the row that selects `w`, or ILLEGAL (`none`). -/
def decode (w : Word) : Option Instr :=
  (opcodeTable.find? fun r => r.selects w).map fun r => r.op.build (fieldsOf w)

/-- The OP value of a row (R84). -/
def Opcode.opByte : Opcode → BitVec 8
  | .nop => 0x00
  | .gfmul => 0x01
  | .sbox => 0x02
  | .isbox => 0x03
  | .mov => 0x10
  | .sub => 0x11
  | .isub => 0x12
  | .rot => 0x13
  | .irot => 0x14
  | .mix => 0x15
  | .imix => 0x16
  | .xor => 0x17
  | .xkey => 0x18
  | .xrk => 0x19
  | .rkey => 0x1A
  | .round => 0x1B
  | .iround => 0x1C
  | .encb => 0x20
  | .decb => 0x21
  | .kdf => 0x30
  | .cbcenc => 0x40
  | .cbcdec => 0x41
  | .valid => 0x42

/-- Class N: no operand field. -/
def fieldsN (op : Opcode) : Fields := ⟨op.opByte, 0, 0, 0, 0, 0⟩

/-- Classes I1 and I2: immediates only. -/
def fieldsI (op : Opcode) (a b : Byte) : Fields := ⟨op.opByte, 0, 0, 0, a, b⟩

/-- Classes R2, R2I and R1I: registers, and a round index or 0. -/
def fieldsR (op : Opcode) (vd vs : VReg) (r : Byte) : Fields :=
  ⟨op.opByte, vregField vd, vregField vs, 0, r, 0⟩

/-- The field record of an instruction, every unused field 0 (R83). -/
def Instr.fields : Instr → Fields
  | .nop => fieldsN .nop
  | .gfmul a b => fieldsI .gfmul a b
  | .sbox x => fieldsI .sbox x 0
  | .isbox y => fieldsI .isbox y 0
  | .mov vd vs => fieldsR .mov vd vs 0
  | .sub vd vs => fieldsR .sub vd vs 0
  | .isub vd vs => fieldsR .isub vd vs 0
  | .rot vd vs => fieldsR .rot vd vs 0
  | .irot vd vs => fieldsR .irot vd vs 0
  | .mix vd vs => fieldsR .mix vd vs 0
  | .imix vd vs => fieldsR .imix vd vs 0
  | .xor vd vs => fieldsR .xor vd vs 0
  | .xkey vd vs => fieldsR .xkey vd vs 0
  | .xrk vd vs r => fieldsR .xrk vd vs r
  | .rkey vd r => fieldsR .rkey vd 0 r
  | .round vd vs r => fieldsR .round vd vs r
  | .iround vd vs r => fieldsR .iround vd vs r
  | .encb vd vs => fieldsR .encb vd vs 0
  | .decb vd vs => fieldsR .decb vd vs 0
  | .kdf => fieldsN .kdf
  | .cbcenc => fieldsN .cbcenc
  | .cbcdec => fieldsN .cbcdec
  | .valid => fieldsN .valid

/-- The word of an instruction (R81, R83). -/
def encode (i : Instr) : Word := wordOf i.fields

/-- What the assembler writes into the fields for a row and its operands (R88). -/
def operandFields (op : Opcode) (os : List Operand) : Fields :=
  match os with
  | [.imm a] => fieldsI op (BitVec.ofNat 8 a) 0
  | [.imm a, .imm b] => fieldsI op (BitVec.ofNat 8 a) (BitVec.ofNat 8 b)
  | [.reg d, .imm r] => ⟨op.opByte, BitVec.ofNat 2 d, 0, 0, BitVec.ofNat 8 r, 0⟩
  | [.reg d, .reg v] => ⟨op.opByte, BitVec.ofNat 2 d, BitVec.ofNat 2 v, 0, 0, 0⟩
  | [.reg d, .reg v, .imm r] => ⟨op.opByte, BitVec.ofNat 2 d, BitVec.ofNat 2 v, 0, BitVec.ofNat 8 r, 0⟩
  | _ => fieldsN op

/-- "`CLR vD` = `XOR vD, vD` ...; `WHITEN vD` = `XKEY vD, vD`" (R89); a command line stands for itself. -/
def SourceLine.expand (l : SourceLine) : Opcode × List Operand :=
  match l.mnemonic with
  | .cmd op => (op, l.operands)
  | .clr => (.xor, l.operands ++ l.operands)
  | .whiten => (.xkey, l.operands ++ l.operands)

/-- The assembler: the word of a well-formed source line, `none` where R88 refuses the line. -/
def assemble (l : SourceLine) : Option Word :=
  if l.wellFormed then some (wordOf (operandFields l.expand.1 l.expand.2)) else none

/-- The decoder on a row's number `w` of `nbits` bits. A command word is one 32-bit register value
(R80), so the table's bit numbers are the word's own. -/
def decodeTableWord (nbits w : Nat) : Option Instr :=
  if w % 2 ^ nbits < 2 ^ 32 then decode (BitVec.ofNat 32 (w % 2 ^ nbits)) else none

end Sys2Proof
end

