-- ==== Sys2Proof/Machine/State.lean ====
section
/-! DEFINITION. The state of the three agents of 00_scope.md R11: the core's registers and latch
(10_state.md R20), the DMA memory M, what the host has still to do and what it was last answered, and
the entropy source's answers to come; the two reasons a step can stop; the machine after reset. -/

namespace Sys2Proof.Machine

/-- The completion codes of 60_exceptions.md R262. Codes 9-15 are never produced and have no name. -/
inductive Code where
  | ok
  | illegalCmd
  | invalidLength
  | invalidPadding
  | entropyError
  | busError
  | capacity
  | overlap
  /-- Code 8, "reserved: never raised by KC-CORE". -/
  | malformedEncoding
deriving DecidableEq, Repr

/-- One access of the host: to the register window at a byte offset with a width in bits (20_memory.md
R64), or to a run of bytes of M "by whatever accesses the platform gives it" (R60, R90). -/
inductive HostAccess where
  | readReg (offset : BitVec 8) (width : Nat)
  | writeReg (offset : BitVec 8) (width : Nat) (value : Word)
  | readMem (addr n : Nat)
  | writeMem (addr : Nat) (bytes : Bytes)
deriving DecidableEq, Repr

/-- Whose step comes next: the host's access, the core's perform step, or the reset input (R11, R290). -/
inductive Turn where
  | host (a : HostAccess)
  | core
  | hardReset
deriving DecidableEq, Repr

/-- What the last host access was answered. A bus error answers a read with a value (R64). -/
inductive BusResponse where
  | none
  | ack
  | word (w : Word)
  | bytes (bs : Bytes)
  | busError (data : Option Word)
deriving DecidableEq, Repr

/-- The DMA memory M: the listed bytes at strictly rising addresses; an address with no entry reads
as `Memory.unlistedByte`, and no entry holds that value. -/
abbrev Memory := List Host.Cell

/-- What an address of M with no entry reads as. DESIGN CHOICE (log 1): M at power-up is "any value"
(93 I9); every content of M has a list of entries, so only `State.reset` itself rests on this byte. -/
def Memory.unlistedByte : Byte := 0

/-- The one form of a memory: addresses strictly rising, no entry equal to the unlisted byte. -/
abbrev Memory.wf (m : Memory) : Prop :=
  m.Pairwise (fun c d => c.1 < d.1) ∧ ∀ c ∈ m, c.2 ≠ Memory.unlistedByte

/-- The state of KC-CORE and of the agents around it. BUSY is stored as "PEND holds a word" (R26),
IRQ and ID are computed (R38, R23). -/
structure State where
  /-- CTRL.IE (R24). -/
  ie : Bool
  /-- STATUS.DONE (R25). -/
  done : Bool
  /-- STATUS.ERR (R25). -/
  err : Bool
  /-- STATUS.IGN (R25). -/
  ign : Bool
  /-- ERRCODE (R27). -/
  errcode : Code
  /-- CMD, the last accepted word (R28). -/
  cmd : Word
  /-- PEND, the word awaiting its perform step; BUSY = 1 exactly while there is one (R26). -/
  pend : Option Word
  /-- RESULT (R29). -/
  result : Word
  srcAddr : Word
  srcLen : Word
  dstAddr : Word
  dstCap : Word
  idaAddr : Word
  idaLen : Word
  idbAddr : Word
  idbLen : Word
  /-- KEY (R31). -/
  key : Block
  /-- IV, the last IV used (R32). -/
  iv : Block
  /-- V0..V3 (R30). -/
  v : Vector Block 4
  /-- The DMA memory M (R61). -/
  mem : Memory
  /-- The entropy source's answers to the coming draws, oldest first; past the last one an answer is
  the free value `Config.entropyDraw` (R275). -/
  entropy : List (Option Block)
  /-- How many draws were made so far. -/
  draws : Nat
  /-- The turns to come, oldest first; with none left the core has the turn (R11, R303). -/
  inbox : List Turn
  /-- The answer to the host's last access. -/
  resp : BusResponse
deriving DecidableEq, Repr

/-- The one fault of the model's step (R270). -/
inductive Fault where
  /-- The host writes a byte of M inside a range the pending command reads or writes
  (70_reset_and_hazards.md R298), or reads one inside the range it is to write
  (93_implementation_defined.md I10). Raised by a host turn, never by a command. Safe: the hardware
  goes on. -/
  | bufferHazard
deriving DecidableEq, Repr

/-- The refusals of the model's step. -/
inductive Refusal where
  /-- An instruction without a meaning yet. Raised by no arm of `exec` here. Safe. -/
  | notModelled (mnemonic : String)
  /-- The host names bytes outside 0..MEM_SIZE-1: they are no part of M (20_memory.md R61) and what
  answers there is the platform's. Raised by a host turn, never by a command. Safe. -/
  | hostOutsideM
deriving DecidableEq, Repr

/-- The machine right after reset (R40), with nothing listed in M and nothing for the host to do. -/
def State.reset : State where
  ie := false
  done := false
  err := false
  ign := false
  errcode := .ok
  cmd := 0
  pend := none
  result := 0
  srcAddr := 0
  srcLen := 0
  dstAddr := 0
  dstCap := 0
  idaAddr := 0
  idaLen := 0
  idbAddr := 0
  idbLen := 0
  key := Vector.replicate 16 0
  iv := Vector.replicate 16 0
  v := Vector.replicate 4 (Vector.replicate 16 0)
  mem := []
  entropy := []
  draws := 0
  inbox := []
  resp := .none

end Sys2Proof.Machine
end

