-- ==== Sys2Proof/Machine/Flags.lean ====
section
/-! DEFINITION. The flag computations: STATUS, "the hardware's only flags" (10_state.md R25), its
write-1-to-clear, BUSY (R26), IRQ (R38), and the words of CTRL, STATUS, ERRCODE and ID. -/

namespace Sys2Proof.Machine

/-- STATUS.BUSY: 1 exactly while PEND holds a word (R26, R40). -/
def State.busy (s : State) : Bool := s.pend.isSome

/-- "IRQ = CTRL.IE and STATUS.DONE" (R38). -/
def State.irq (s : State) : Bool := s.ie && s.done

/-- The number of a completion code (60_exceptions.md R262). -/
def Code.toNat : Code → Nat
  | .ok => 0
  | .illegalCmd => 1
  | .invalidLength => 2
  | .invalidPadding => 3
  | .entropyError => 4
  | .busError => 5
  | .capacity => 6
  | .overlap => 7
  | .malformedEncoding => 8

/-- ID: VERSION 1, KEY_BYTES 16, BLOCK_BYTES 16, ROUNDS 3 (R23). -/
def idWord : Word := 0x01101003

/-- CTRL as read: bit 0 IE; SRST and the reserved bits read 0 (R24). -/
def State.ctrlWord (s : State) : Word := if s.ie then 1 else 0

/-- STATUS as read: BUSY, DONE, ERR, IGN in bits 0..3, the rest 0 (R25). -/
def State.statusWord (s : State) : Word :=
  (0 : BitVec 28) ++ BitVec.ofBool s.ign ++ BitVec.ofBool s.err ++ BitVec.ofBool s.done ++ BitVec.ofBool s.busy

/-- ERRCODE as read: the code in bits [3:0] (R27). -/
def State.errcodeWord (s : State) : Word := BitVec.ofNat 32 s.errcode.toNat

/-- A write to STATUS: 1 in bit 1, 2 or 3 clears DONE, ERR or IGN; BUSY and the rest are not written (R25). -/
def State.writeStatus (s : State) (x : Word) : State :=
  { s with
    done := s.done && !x.getLsbD 1
    err := s.err && !x.getLsbD 2
    ign := s.ign && !x.getLsbD 3 }

/-- "is ignored and sets STATUS.IGN <- 1" (R37). -/
def State.setIgn (s : State) : State := { s with ign := true }

end Sys2Proof.Machine
end

