-- ==== Sys2Proof/Machine/Gf256.lean ====
section
/-! DEFINITION. Multiplication in GF(2^8) (41_field.md R110, R111) and the inner product of two
4-vectors over that field, the one step of every matrix product of the spec (43_round.md R142). -/

namespace Sys2Proof.Machine

/-- The feedback constant of GF_POLY = 0x11B (00_scope.md R4). -/
def gfFeedback : Byte := 0x1B

/-- One shift and reduce of the multiplicand: `a << 1`, with 0x1B added when bit 7 fell out (R111). -/
def gfDouble (a : Byte) : Byte :=
  if a.getLsbD 7 then (a <<< 1) ^^^ gfFeedback else a <<< 1

/-- `n` turns of the shift-and-reduce loop of R111, from multiplicand `a`, multiplier `b` and
partial product `p`. -/
def gfLoop : Nat → Byte → Byte → Byte → Byte
  | 0, _, _, p => p
  | n + 1, a, b, p => gfLoop n (gfDouble a) (b >>> 1) (if b.getLsbD 0 then p ^^^ a else p)

/-- `gfmul(a, b)`: eight turns of the loop (R111), which R110 says is the product of the two
polynomials modulo X^8 + X^4 + X^3 + X + 1. -/
def gfmul (a b : Byte) : Byte := gfLoop 8 a b 0

/-- XOR over k in 0..3 of `gfmul(a[k], b[k])` (the right side of R142). -/
def gfDot (a b : Fin 4 → Byte) : Byte :=
  gfmul (a 0) (b 0) ^^^ gfmul (a 1) (b 1) ^^^ gfmul (a 2) (b 2) ^^^ gfmul (a 3) (b 3)

end Sys2Proof.Machine
end

