-- ==== Sys2Proof/Config.lean ====
section
/-! DEFINITION. The implementation parameters of 00_scope.md R4: the fixed ones as numbers, the OPEN
ones as ONE uninterpreted constant of a structure that carries the constraints R4 puts on them, and
the entropy source's draws as a free value. A configuration that breaks a constraint cannot be
written (93_implementation_defined.md I17: refuse). -/

namespace Sys2Proof

/-- BLOCK_BYTES (R4, fixed). -/
abbrev Config.blockBytes : Nat := 16

/-- ROUNDS (R4, fixed for this hardware). -/
abbrev Config.rounds : Nat := 3

/-- The OPEN parameters of R4 with R4's constraints on them. A value written after `:=` is NOT this
hardware's: it only shows that some configuration meets the constraints, which Lean asks for before
it takes an uninterpreted constant of this type. -/
structure Params where
  /-- `SBOX`, one byte for every byte. -/
  sbox : Byte → Byte := id
  /-- `INV_SBOX`. -/
  invSbox : Byte → Byte := id
  /-- "`INV_SBOX[SBOX[x]] = x` for every byte x"; it makes `SBOX` a bijection. -/
  invSbox_sbox : ∀ x, invSbox (sbox x) = x := by intro x; rfl
  /-- `MIX[r][k]`, r = row, k = column. -/
  mix : Fin 4 → Fin 4 → Byte := fun r k => if r = k then 1 else 0
  /-- `INV_MIX[r][k]`. -/
  invMix : Fin 4 → Fin 4 → Byte := fun r k => if r = k then 1 else 0
  /-- "`INV_MIX x MIX = I` over GF(2^8)". -/
  invMix_mix : ∀ r c, Machine.gfDot (invMix r) (fun k => mix k c) = if r = c then 1 else 0 := by decide
  /-- `H256`: a total function from byte strings of any length to 32-byte strings. -/
  h256 : Bytes → Digest := fun _ => Vector.replicate 32 0
  /-- `SALT`, a fixed byte string of any length. -/
  salt : Bytes := []
  /-- `MEM_SIZE`, in bytes. -/
  memSize : Nat := 1
  memSize_pos : 0 < memSize := by decide
  memSize_le : memSize ≤ 2 ^ 32 := by decide
  /-- `WINDOW_BASE`: "platform address of the 256-byte register window; no rule depends on it". -/
  windowBase : Nat := 0
deriving Inhabited

/-- This hardware's configuration: any one that R4 allows, nothing more is known of it. -/
opaque Config.params : Params

/-- The free value of the entropy source (60_exceptions.md R275, 93 I8): the answer to the n-th draw
when State scripts none, `some` 16 bytes or `none`, under no law. -/
opaque Config.entropyDraw : Nat → Option Block

end Sys2Proof
end

