-- ==== Sys2Proof/Machine/Operands.lean ====
section
/-! DEFINITION. The operand forms: blocks and their bytes (00_scope.md R7), the 32-bit lanes of a
16-byte register (10_state.md R35), the block registers that VD and VS select (30_encoding.md R82),
immediates (R82), and the address ranges that the operand registers name (20_memory.md R62, R63). -/

namespace Sys2Proof.Machine

/-- `rep(16, 0)` (R7). -/
def zeroBlock : Block := Vector.replicate 16 0

/-- `(A ⊕ B)[i] = A[i] xor B[i]` (R7). -/
def xorBlock (a b : Block) : Block := Vector.ofFn fun i => a[i] ^^^ b[i]

/-- The block of a 16-byte string; only strings of 16 bytes are given to it. -/
def blockOf (bs : Bytes) : Block := Vector.ofFn fun i => bs.getD i.val 0

/-- `D[0..16)`, "the first 16 bytes" of a digest (R7). -/
def first16 (d : Digest) : Block := Vector.ofFn fun i => d[i.val]

/-- "it uses `zext_32`" (R82): zero bits above. -/
def zext32 (b : Byte) : Word := b.setWidth 32

/-- Word `w` of a 16-byte register: byte 4w+k in bits [8k+7:8k] (R35). -/
def lane (b : Block) (w : Fin 4) : Word :=
  b[4 * w.val + 3] ++ b[4 * w.val + 2] ++ b[4 * w.val + 1] ++ b[4 * w.val]

/-- "writing word x to it sets `R[4w+k] <- x[8k+7:8k]` for k in 0..3 and changes no other byte" (R35). -/
def setLane (b : Block) (w : Fin 4) (x : Word) : Block :=
  Vector.ofFn fun i => if i.val / 4 = w.val then x.extractLsb' (8 * (i.val % 4)) 8 else b[i]

/-- `V[n]` (R9). -/
def State.getV (s : State) (n : VReg) : Block := s.v[n]

/-- `V[n] <- B` (R9). -/
def State.setV (s : State) (n : VReg) (b : Block) : State := { s with v := s.v.set n b }

/-- `RESULT <- x` (R29). -/
def State.setResult (s : State) (x : Word) : State := { s with result := x }

/-- `KEY <- B` (R31). -/
def State.setKey (s : State) (b : Block) : State := { s with key := b }

/-- `IV <- B` (R32). -/
def State.setIv (s : State) (b : Block) : State := { s with iv := b }

/-- `InRange(a, n)`: "iff `n = 0` or `a + n <= MEM_SIZE`, computed on unbounded integers" (R62). -/
abbrev InRange (P : Params) (a n : Nat) : Prop := n = 0 ∨ a + n ≤ P.memSize

/-- `Overlap(a, n, b, m)` (R63). -/
abbrev Overlap (a n b m : Nat) : Prop := 0 < n ∧ 0 < m ∧ a < b + m ∧ b < a + n

end Sys2Proof.Machine
end

