-- ==== Sys2Proof/Machine/Ops.lean ====
section
/-! DEFINITION. The named operations every command is written over: reads and writes of M
(20_memory.md R61), accepting a command (10_state.md R28), ending one, with or without an error
(60_exceptions.md R266), a draw of the entropy port (R275), and the reset of the registers
(70_reset_and_hazards.md R291). An error takes no trap: `raise` writes ERRCODE and STATUS, saves
nothing and goes nowhere (R260, R270), and there is no return from it; the host acknowledges by
`State.writeStatus` (R271). -/

namespace Sys2Proof.Machine

/-- `M[a]`. -/
def Memory.read : Memory → Nat → Byte
  | [], _ => Memory.unlistedByte
  | (k, b) :: m, a => if k = a then b else Memory.read m a

/-- The entry of `a` put before a tail whose addresses are all above `a`; none for the unlisted byte. -/
def Memory.cons (a : Nat) (b : Byte) (m : Memory) : Memory :=
  if b = Memory.unlistedByte then m else (a, b) :: m

/-- `M[a] <- b`. -/
def Memory.write : Memory → Nat → Byte → Memory
  | [], a, b => Memory.cons a b []
  | (k, c) :: m, a, b =>
    if k < a then (k, c) :: Memory.write m a b
    else if k = a then Memory.cons a b m
    else Memory.cons a b ((k, c) :: m)

/-- `MemRead(a, n)` (R61). -/
def Memory.readBytes (m : Memory) (a : Nat) : Nat → Bytes
  | 0 => []
  | n + 1 => m.read a :: m.readBytes (a + 1) n

/-- `MemWrite(a, len(B), B)` (R61). -/
def Memory.writeBytes (m : Memory) (a : Nat) : Bytes → Memory
  | [] => m
  | b :: bs => (m.write a b).writeBytes (a + 1) bs

/-- M after `MemWrite(a, len(B), B)`. -/
def State.writeM (s : State) (a : Nat) (bs : Bytes) : State := { s with mem := s.mem.writeBytes a bs }

/-- The completion bookkeeping with code `c` (R266). -/
def State.finish (s : State) (c : Code) : State :=
  { s with pend := none, done := true, errcode := c, err := s.err || c != .ok }

/-- `complete` (R9): the bookkeeping with code 0. -/
def State.complete (s : State) : State := s.finish .ok

/-- `raise E` (R9): the bookkeeping with the code of E. -/
def State.raise (s : State) (c : Code) : State := s.finish c

/-- Acceptance of a command word: "CMD <- w, PEND <- w, BUSY <- 1, DONE <- 0" (R28). -/
def State.accept (s : State) (w : Word) : State := { s with cmd := w, pend := some w, done := false }

/-- What the entropy source answers to the next draw (R275). -/
def State.nextDraw (s : State) : Option Block :=
  match s.entropy with
  | d :: _ => d
  | [] => Config.entropyDraw s.draws

/-- The source after that draw. -/
def State.drawn (s : State) : State := { s with entropy := s.entropy.tail, draws := s.draws + 1 }

/-- Every register at its reset value and no pending command; M and the agents around the core stay
as they are (R291). -/
def State.resetRegisters (s : State) : State :=
  { State.reset with
    mem := s.mem, entropy := s.entropy, draws := s.draws, inbox := s.inbox, resp := s.resp }

/-- The answer the host gets. -/
def State.respond (s : State) (r : BusResponse) : State := { s with resp := r }

/-- The turns left are `ts`. -/
def State.setInbox (s : State) (ts : List Turn) : State := { s with inbox := ts }

end Sys2Proof.Machine
end

