-- ==== Sys2Proof/Machine/RoundKey.lean ====
section
/-! DEFINITION. Round subkeys (44_key_derivation.md R181), recomputed from the Key at every use. -/

namespace Sys2Proof.Machine

/-- `RK(K, r) = H256(K ‖ byte(r))[0..16)` (R181). -/
def roundKey (P : Params) (k : Block) (r : Byte) : Block := first16 (P.h256 (k.toList ++ [r]))

end Sys2Proof.Machine
end

