-- ==== Sys2Proof/Machine/Substitution.lean ====
section
/-! DEFINITION. Substitution (42_substitution.md): the tables on bytes and on blocks, and the four
commands. -/

namespace Sys2Proof.Machine

/-- `Sub(S)[i] = SBOX[S[i]]` (R122). -/
def subBlock (P : Params) (b : Block) : Block := Vector.ofFn fun i => P.sbox b[i]

/-- `InvSub(S)[i] = INV_SBOX[S[i]]` (R123). -/
def invSubBlock (P : Params) (b : Block) : Block := Vector.ofFn fun i => P.invSbox b[i]

/-- SBOX: `RESULT <- zext_32(SBOX[IMMA])` (R120). -/
def execSbox (x : Byte) (s : State) : Host.Outcome State Fault Refusal :=
  .next (s.setResult (zext32 (Config.params.sbox x))).complete

/-- ISBOX: `RESULT <- zext_32(INV_SBOX[IMMA])` (R121). -/
def execIsbox (y : Byte) (s : State) : Host.Outcome State Fault Refusal :=
  .next (s.setResult (zext32 (Config.params.invSbox y))).complete

/-- SUB: `V[VD] <- Sub(V[VS])` (R122). -/
def execSub (vd vs : VReg) (s : State) : Host.Outcome State Fault Refusal :=
  .next (s.setV vd (subBlock Config.params (s.getV vs))).complete

/-- ISUB: `V[VD] <- InvSub(V[VS])` (R123). -/
def execIsub (vd vs : VReg) (s : State) : Host.Outcome State Fault Refusal :=
  .next (s.setV vd (invSubBlock Config.params (s.getV vs))).complete

end Sys2Proof.Machine
end

