-- ==== Sys2Proof/Machine/Round.lean ====
section
/-! DEFINITION. The round functions and their commands (43_round.md). A block is a 4x4 matrix in
row-major order: row r, column c is byte 4r + c (00_scope.md R8). -/

namespace Sys2Proof.Machine

/-- `Rot(S)[4r + j] = S[4r + ((j + r) mod 4)]` (R140). -/
def rotBlock (b : Block) : Block :=
  Vector.ofFn fun i => b[4 * (i.val / 4) + (i.val % 4 + i.val / 4) % 4]

/-- `InvRot(S)[4r + j] = S[4r + ((j - r) mod 4)]`, the remainder in 0..3 (R141). -/
def invRotBlock (b : Block) : Block :=
  Vector.ofFn fun i => b[4 * (i.val / 4) + (i.val % 4 + 4 - i.val / 4) % 4]

/-- Column `c` of the state matrix, `<S[c], S[4+c], S[8+c], S[12+c]>` (R8). -/
def columnOf (b : Block) (c : Fin 4) (k : Fin 4) : Byte := b[4 * k.val + c.val]

/-- Every column of the state times the matrix `m`, as a column vector (R142). -/
def mulColumns (m : Fin 4 → Fin 4 → Byte) (b : Block) : Block :=
  Vector.ofFn fun i => gfDot (m ⟨i.val / 4, by omega⟩) (columnOf b ⟨i.val % 4, by omega⟩)

/-- `Mix(S)` (R142). -/
def mixBlock (P : Params) (b : Block) : Block := mulColumns P.mix b

/-- `InvMix(S)` (R143). -/
def invMixBlock (P : Params) (b : Block) : Block := mulColumns P.invMix b

/-- The round index whose round has no column mix, `ROUNDS - 1` (R152). -/
def lastRound : Byte := BitVec.ofNat 8 (Config.rounds - 1)

/-- `Round(S, K, r)` (R152). -/
def roundBlock (P : Params) (b k : Block) (r : Byte) : Block :=
  let t := rotBlock (subBlock P b)
  xorBlock (if r = lastRound then t else mixBlock P t) (roundKey P k r)

/-- `InvRound(S, K, r)` (R153). -/
def invRoundBlock (P : Params) (b k : Block) (r : Byte) : Block :=
  let t := xorBlock b (roundKey P k r)
  invSubBlock P (invRotBlock (if r = lastRound then t else invMixBlock P t))

/-- ROT: `V[VD] <- Rot(V[VS])` (R144). -/
def execRot (vd vs : VReg) (s : State) : Host.Outcome State Fault Refusal :=
  .next (s.setV vd (rotBlock (s.getV vs))).complete

/-- IROT: `V[VD] <- InvRot(V[VS])` (R145). -/
def execIrot (vd vs : VReg) (s : State) : Host.Outcome State Fault Refusal :=
  .next (s.setV vd (invRotBlock (s.getV vs))).complete

/-- MIX: `V[VD] <- Mix(V[VS])` (R146). -/
def execMix (vd vs : VReg) (s : State) : Host.Outcome State Fault Refusal :=
  .next (s.setV vd (mixBlock Config.params (s.getV vs))).complete

/-- IMIX: `V[VD] <- InvMix(V[VS])` (R147). -/
def execImix (vd vs : VReg) (s : State) : Host.Outcome State Fault Refusal :=
  .next (s.setV vd (invMixBlock Config.params (s.getV vs))).complete

/-- MOV: `V[VD] <- V[VS]` (R148). -/
def execMov (vd vs : VReg) (s : State) : Host.Outcome State Fault Refusal :=
  .next (s.setV vd (s.getV vs)).complete

/-- XOR: `V[VD] <- V[VD] ⊕ V[VS]` (R149). -/
def execXor (vd vs : VReg) (s : State) : Host.Outcome State Fault Refusal :=
  .next (s.setV vd (xorBlock (s.getV vd) (s.getV vs))).complete

/-- XKEY: `V[VD] <- V[VS] ⊕ KEY` (R150). -/
def execXkey (vd vs : VReg) (s : State) : Host.Outcome State Fault Refusal :=
  .next (s.setV vd (xorBlock (s.getV vs) s.key)).complete

/-- XRK: `V[VD] <- V[VS] ⊕ RK(KEY, IMMA)` (R151). -/
def execXrk (vd vs : VReg) (r : Byte) (s : State) : Host.Outcome State Fault Refusal :=
  .next (s.setV vd (xorBlock (s.getV vs) (roundKey Config.params s.key r))).complete

/-- ROUND: `V[VD] <- Round(V[VS], KEY, IMMA)` (R154). -/
def execRound (vd vs : VReg) (r : Byte) (s : State) : Host.Outcome State Fault Refusal :=
  .next (s.setV vd (roundBlock Config.params (s.getV vs) s.key r)).complete

/-- IROUND: `V[VD] <- InvRound(V[VS], KEY, IMMA)` (R155). -/
def execIround (vd vs : VReg) (r : Byte) (s : State) : Host.Outcome State Fault Refusal :=
  .next (s.setV vd (invRoundBlock Config.params (s.getV vs) s.key r)).complete

end Sys2Proof.Machine
end

