-- ==== Sys2Proof/Machine/BlockCipher.lean ====
section
/-! DEFINITION. The block cipher core (45_block_cipher.md). -/

namespace Sys2Proof.Machine

/-- The rounds `r = n, n+1, …` of `E`, `k` of them, ascending (R200). -/
def encRounds (P : Params) (key : Block) : Nat → Nat → Block → Block
  | _, 0, b => b
  | r, k + 1, b => encRounds P key (r + 1) k (roundBlock P b key (BitVec.ofNat 8 r))

/-- The rounds `r = n-1, …, 1, 0` of `D`, descending (R201). -/
def decRounds (P : Params) (key : Block) : Nat → Block → Block
  | 0, b => b
  | r + 1, b => decRounds P key r (invRoundBlock P b key (BitVec.ofNat 8 r))

/-- `E(P, K)`: whitening, then the ROUNDS rounds (R200). -/
def encryptBlock (P : Params) (b key : Block) : Block :=
  encRounds P key 0 Config.rounds (xorBlock b key)

/-- `D(C, K)`: the inverse rounds in descending order, then the whitening (R201). -/
def decryptBlock (P : Params) (b key : Block) : Block :=
  xorBlock (decRounds P key Config.rounds b) key

/-- ENCB: `V[VD] <- E(V[VS], KEY)` (R204). -/
def execEncb (vd vs : VReg) (s : State) : Host.Outcome State Fault Refusal :=
  .next (s.setV vd (encryptBlock Config.params (s.getV vs) s.key)).complete

/-- DECB: `V[VD] <- D(V[VS], KEY)` (R205). -/
def execDecb (vd vs : VReg) (s : State) : Host.Outcome State Fault Refusal :=
  .next (s.setV vd (decryptBlock Config.params (s.getV vs) s.key)).complete

end Sys2Proof.Machine
end

