-- ==== Sys2Proof/Machine/Cbc.lean ====
section
/-! DEFINITION. CBC chaining with padding (46_cbc.md). -/

namespace Sys2Proof.Machine

/-- The first `n` blocks of a byte string (R220). -/
def takeBlocks : Nat → Bytes → List Block
  | 0, _ => []
  | n + 1, x => blockOf (x.take 16) :: takeBlocks n (x.drop 16)

/-- The blocks `X_1, …, X_n` of a byte string, n = len(X) / 16 (R220). -/
def blocksOf (x : Bytes) : List Block := takeBlocks (x.length / 16) x

/-- `B_1 ‖ … ‖ B_n`. -/
def bytesOf (bs : List Block) : Bytes := bs.flatMap fun b => b.toList

/-- The pad count of a plaintext of `n` bytes, 1..16 (R221). -/
def padCount (n : Nat) : Nat := 16 - n % 16

/-- `Pad(M) = M ‖ rep(v, v)` (R221). -/
def pad (m : Bytes) : Bytes :=
  m ++ List.replicate (padCount m.length) (BitVec.ofNat 8 (padCount m.length))

/-- `Unpad(P)`: only the last byte is examined; `none` is *bad* (R222). -/
def unpad (p : Bytes) : Option Bytes :=
  let v := (p.getLastD 0).toNat
  if v < 1 ∨ 16 < v ∨ p.length < v then none else some (p.take (p.length - v))

/-- `C_i <- E(P_i ⊕ C_(i-1), K)` for each block in order, from `C_0 = prev` (R223). -/
def chainBlocks (P : Params) (key : Block) : Block → List Block → List Block
  | _, [] => []
  | prev, b :: bs =>
    let c := encryptBlock P (xorBlock b prev) key
    c :: chainBlocks P key c bs

/-- `P_i <- D(C_i, K) ⊕ C_(i-1)`, "XOR with the raw previous ciphertext block" (R224). -/
def unchainBlocks (P : Params) (key : Block) : Block → List Block → List Block
  | _, [] => []
  | prev, c :: cs => xorBlock (decryptBlock P c key) prev :: unchainBlocks P key c cs

/-- `CbcEncrypt(M, K, IV)` (R223). -/
def cbcEncrypt (P : Params) (m : Bytes) (key iv : Block) : Bytes :=
  bytesOf (iv :: chainBlocks P key iv (blocksOf (pad m)))

/-- The recovered padded plaintext `P_1 ‖ … ‖ P_m` of an envelope (R224). -/
def cbcRecover (P : Params) (x : Bytes) (key : Block) : Bytes :=
  match blocksOf x with
  | [] => []
  | c0 :: cs => bytesOf (unchainBlocks P key c0 cs)

/-- `CbcDecrypt(X, K)`: *ok* of the plaintext, or *bad* (R224). -/
def cbcDecrypt (P : Params) (x : Bytes) (key : Block) : Option Bytes := unpad (cbcRecover P x key)

/-- `out_len = 16 * (n div 16 + 2)`, an unbounded integer (R225). -/
def envelopeLength (n : Nat) : Nat := 16 * (n / 16 + 2)

/-- "length ≥ 32 and length mod 16 == 0" (R226, R227). -/
abbrev EnvelopeLengthOk (n : Nat) : Prop := 32 ≤ n ∧ n % 16 = 0

/-- The source bytes, `MemRead(SRC_ADDR, SRC_LEN)`. -/
def State.source (s : State) : Bytes := s.mem.readBytes s.srcAddr.toNat s.srcLen.toNat

/-- The checks of CBCENC in R225's order, all but the entropy draw; `ok` when all pass. -/
def cbcencCheck (P : Params) (s : State) : Code :=
  let n := s.srcLen.toNat
  let outLen := envelopeLength n
  if ¬ InRange P s.srcAddr.toNat n then .busError
  else if s.dstCap.toNat < outLen then .capacity
  else if ¬ InRange P s.dstAddr.toNat outLen then .busError
  else if Overlap s.srcAddr.toNat n s.dstAddr.toNat outLen then .overlap
  else .ok

/-- CBCENC's writes with the drawn IV `ivv`: the envelope to M, IV, RESULT (R225). -/
def cbcencWrite (P : Params) (ivv : Block) (s : State) : State :=
  ((s.writeM s.dstAddr.toNat (cbcEncrypt P s.source s.key ivv)).setIv ivv).setResult
    (BitVec.ofNat 32 (envelopeLength s.srcLen.toNat))

/-- CBCENC under the parameters `P`: the checks, then exactly one draw, then the writes (R225). -/
def cbcencUnder (P : Params) (s : State) : State :=
  match cbcencCheck P s with
  | .ok =>
    match s.nextDraw with
    | none => s.drawn.raise .entropyError
    | some ivv => (cbcencWrite P ivv s.drawn).complete
  | c => s.raise c

/-- The checks of CBCDEC in R226's order: the code of the first that fails, or the plaintext. -/
def cbcdecCheck (P : Params) (s : State) : Except Code Bytes :=
  let len := s.srcLen.toNat
  if ¬ EnvelopeLengthOk len then .error .invalidLength
  else if ¬ InRange P s.srcAddr.toNat len then .error .busError
  else match cbcDecrypt P s.source s.key with
    | none => .error .invalidPadding
    | some p =>
      if s.dstCap.toNat < p.length then .error .capacity
      else if ¬ InRange P s.dstAddr.toNat p.length then .error .busError
      else if Overlap s.srcAddr.toNat len s.dstAddr.toNat p.length then .error .overlap
      else .ok p

/-- CBCDEC's writes: the plaintext to M, the envelope's first block to IV, RESULT (R226). -/
def cbcdecWrite (p : Bytes) (s : State) : State :=
  ((s.writeM s.dstAddr.toNat p).setIv (blockOf (s.source.take 16))).setResult (BitVec.ofNat 32 p.length)

/-- CBCDEC under the parameters `P` (R226). -/
def cbcdecUnder (P : Params) (s : State) : State :=
  match cbcdecCheck P s with
  | .error c => s.raise c
  | .ok p => (cbcdecWrite p s).complete

/-- CBCENC (R225). -/
def execCbcenc (s : State) : Host.Outcome State Fault Refusal := .next (cbcencUnder Config.params s)

/-- CBCDEC (R226). -/
def execCbcdec (s : State) : Host.Outcome State Fault Refusal := .next (cbcdecUnder Config.params s)

/-- VALID: RESULT is 1 for an envelope's length, else 0; M is not read (R227). -/
def execValid (s : State) : Host.Outcome State Fault Refusal :=
  .next (s.setResult (if EnvelopeLengthOk s.srcLen.toNat then 1 else 0)).complete

end Sys2Proof.Machine
end

