-- ==== Sys2Proof/Machine/Control.lean ====
section
/-! DEFINITION. Control commands (40_control.md). -/

namespace Sys2Proof.Machine

/-- NOP: `complete` (R100). -/
def execNop (s : State) : Host.Outcome State Fault Refusal := .next s.complete

end Sys2Proof.Machine
end

