-- ==== Sys2Proof/Machine/Field.lean ====
section
/-! DEFINITION. Field arithmetic (41_field.md). -/

namespace Sys2Proof.Machine

/-- GFMUL: `RESULT <- zext_32(gfmul(IMMA, IMMB))` (R112). -/
def execGfmul (a b : Byte) (s : State) : Host.Outcome State Fault Refusal :=
  .next (s.setResult (zext32 (gfmul a b))).complete

end Sys2Proof.Machine
end

