-- ==== Sys2Proof/Machine/KeyDerivation.lean ====
section
/-! DEFINITION. The key derivation engine (44_key_derivation.md). -/

namespace Sys2Proof.Machine

/-- `A <=lex B`: equal, a proper prefix, or smaller at the first difference, bytes unsigned (R180). -/
def lexLe : Bytes → Bytes → Bool
  | [], _ => true
  | _ :: _, [] => false
  | a :: as, b :: bs => if a = b then lexLe as bs else a < b

/-- `Sorted(A, B)` (R180). -/
def sortedPair (a b : Bytes) : Bytes × Bytes := if lexLe a b then (a, b) else (b, a)

/-- `DeriveKey(A, B)`: the first 16 bytes of `H256(L ‖ H ‖ SALT)` (R182). -/
def deriveKey (P : Params) (a b : Bytes) : Block :=
  first16 (P.h256 ((sortedPair a b).1 ++ (sortedPair a b).2 ++ P.salt))

/-- Identifier A in M. -/
def State.identA (s : State) : Bytes := s.mem.readBytes s.idaAddr.toNat s.idaLen.toNat

/-- Identifier B in M. -/
def State.identB (s : State) : Bytes := s.mem.readBytes s.idbAddr.toNat s.idbLen.toNat

/-- KDF under the parameters `P` (R183). -/
def kdfUnder (P : Params) (s : State) : State :=
  if ¬ InRange P s.idaAddr.toNat s.idaLen.toNat ∨ ¬ InRange P s.idbAddr.toNat s.idbLen.toNat then
    s.raise .busError
  else (s.setKey (deriveKey P s.identA s.identB)).complete

/-- KDF (R183). -/
def execKdf (s : State) : Host.Outcome State Fault Refusal := .next (kdfUnder Config.params s)

/-- RKEY: `V[VD] <- RK(KEY, IMMA)` (R184). -/
def execRkey (vd : VReg) (r : Byte) (s : State) : Host.Outcome State Fault Refusal :=
  .next (s.setV vd (roundKey Config.params s.key r)).complete

end Sys2Proof.Machine
end

