-- ==== Sys2Proof/Machine/Dispatch.lean ====
section
/-! DEFINITION. The meaning of every command: one arm per row of 30_encoding.md R84. -/

namespace Sys2Proof.Machine

def exec (i : Instr) (s : State) : Host.Outcome State Fault Refusal :=
  match i with
  | .nop => Sys2Proof.Machine.execNop s
  | .gfmul a b => Sys2Proof.Machine.execGfmul a b s
  | .sbox x => Sys2Proof.Machine.execSbox x s
  | .isbox y => Sys2Proof.Machine.execIsbox y s
  | .mov vd vs => Sys2Proof.Machine.execMov vd vs s
  | .sub vd vs => Sys2Proof.Machine.execSub vd vs s
  | .isub vd vs => Sys2Proof.Machine.execIsub vd vs s
  | .rot vd vs => Sys2Proof.Machine.execRot vd vs s
  | .irot vd vs => Sys2Proof.Machine.execIrot vd vs s
  | .mix vd vs => Sys2Proof.Machine.execMix vd vs s
  | .imix vd vs => Sys2Proof.Machine.execImix vd vs s
  | .xor vd vs => Sys2Proof.Machine.execXor vd vs s
  | .xkey vd vs => Sys2Proof.Machine.execXkey vd vs s
  | .xrk vd vs r => Sys2Proof.Machine.execXrk vd vs r s
  | .rkey vd r => Sys2Proof.Machine.execRkey vd r s
  | .round vd vs r => Sys2Proof.Machine.execRound vd vs r s
  | .iround vd vs r => Sys2Proof.Machine.execIround vd vs r s
  | .encb vd vs => Sys2Proof.Machine.execEncb vd vs s
  | .decb vd vs => Sys2Proof.Machine.execDecb vd vs s
  | .kdf => Sys2Proof.Machine.execKdf s
  | .cbcenc => Sys2Proof.Machine.execCbcenc s
  | .cbcdec => Sys2Proof.Machine.execCbcdec s
  | .valid => Sys2Proof.Machine.execValid s

end Sys2Proof.Machine
end

