-- ==== Sys2Proof/Machine/Window.lean ====
section
/-! DEFINITION. The register window as the host reads and writes it (10_state.md R22-R37,
20_memory.md R64). -/

namespace Sys2Proof.Machine

/-- The registers of the window (R22); the 16-byte ones word by word. -/
inductive WinReg where
  | id | ctrl | status | errcode | cmd | result
  | srcAddr | srcLen | dstAddr | dstCap
  | idaAddr | idaLen | idbAddr | idbLen
  | key (w : Fin 4)
  | iv (w : Fin 4)
  | v (n : VReg) (w : Fin 4)
  | reserved
deriving DecidableEq, Repr

/-- The offsets 0x40-0x9C: KEY, IV, V0..V3, four words each; above them all is reserved (R22). -/
def winRegHigh (k : Nat) : WinReg :=
  let w : Fin 4 := ⟨k % 4, by omega⟩
  match k / 4 with
  | 4 => .key w
  | 5 => .iv w
  | 6 => .v 0 w
  | 7 => .v 1 w
  | 8 => .v 2 w
  | 9 => .v 3 w
  | _ => .reserved

/-- The register at word `k` of the window, that is at byte offset 4k (R22). -/
def winRegAt (k : Nat) : WinReg :=
  match k with
  | 0 => .id
  | 1 => .ctrl
  | 2 => .status
  | 3 => .errcode
  | 4 => .cmd
  | 5 => .result
  | 6 => .srcAddr
  | 7 => .srcLen
  | 8 => .dstAddr
  | 9 => .dstCap
  | 10 => .idaAddr
  | 11 => .idaLen
  | 12 => .idbAddr
  | 13 => .idbLen
  | k => winRegHigh k

/-- What a host read of a register returns (R22-R36); a read changes nothing (R68). -/
def State.readWin (s : State) : WinReg → Word
  | .id => idWord
  | .ctrl => s.ctrlWord
  | .status => s.statusWord
  | .errcode => s.errcodeWord
  | .cmd => s.cmd
  | .result => s.result
  | .srcAddr => s.srcAddr
  | .srcLen => s.srcLen
  | .dstAddr => s.dstAddr
  | .dstCap => s.dstCap
  | .idaAddr => s.idaAddr
  | .idaLen => s.idaLen
  | .idbAddr => s.idbAddr
  | .idbLen => s.idbLen
  | .key w => lane s.key w
  | .iv w => lane s.iv w
  | .v n w => lane (s.getV n) w
  | .reserved => 0

/-- A write to CTRL: bit 1 is the soft reset "instead of any other effect of the write" (R24). -/
def State.writeCtrl (s : State) (x : Word) : State :=
  if x.getLsbD 1 then s.resetRegisters else { s with ie := x.getLsbD 0 }

/-- A write that BUSY = 1 turns away: it is ignored and sets IGN (R37). -/
def State.unlessBusy (s : State) (t : State) : State := if s.busy then s.setIgn else t

/-- A host write to a register (R22-R37). Writes to read-only and reserved registers "are ignored and
set nothing" (R36). -/
def State.writeWin (s : State) (r : WinReg) (x : Word) : State :=
  match r with
  | .id => s
  | .ctrl => s.writeCtrl x
  | .status => s.writeStatus x
  | .errcode => s
  | .cmd => s.unlessBusy (s.accept x)
  | .result => s
  | .srcAddr => s.unlessBusy { s with srcAddr := x }
  | .srcLen => s.unlessBusy { s with srcLen := x }
  | .dstAddr => s.unlessBusy { s with dstAddr := x }
  | .dstCap => s.unlessBusy { s with dstCap := x }
  | .idaAddr => s.unlessBusy { s with idaAddr := x }
  | .idaLen => s.unlessBusy { s with idaLen := x }
  | .idbAddr => s.unlessBusy { s with idbAddr := x }
  | .idbLen => s.unlessBusy { s with idbLen := x }
  | .key w => s.unlessBusy (s.setKey (setLane s.key w x))
  | .iv _ => s
  | .v n w => s.unlessBusy (s.setV n (setLane (s.getV n) w x))
  | .reserved => s

/-- An access the window serves: 32 bits wide at a multiple of 4 (R64). -/
abbrev WindowAccessOk (offset : BitVec 8) (width : Nat) : Prop := width = 32 ∧ offset.toNat % 4 = 0

/-- The register at a served offset. -/
def winRegOf (offset : BitVec 8) : WinReg := winRegAt (offset.toNat / 4)

/-- A host read of the window; any access R64 does not serve gets a bus error and reads 0. -/
def State.hostReadReg (s : State) (offset : BitVec 8) (width : Nat) : State :=
  if WindowAccessOk offset width then s.respond (.word (s.readWin (winRegOf offset)))
  else s.respond (.busError (some 0))

/-- A host write to the window; any access R64 does not serve gets a bus error and changes no state. -/
def State.hostWriteReg (s : State) (offset : BitVec 8) (width : Nat) (x : Word) : State :=
  if WindowAccessOk offset width then (s.writeWin (winRegOf offset) x).respond .ack
  else s.respond (.busError none)

end Sys2Proof.Machine
end

