-- ==== Sys2Proof/Machine/Turns.lean ====
section
/-! DEFINITION. The steps of the agents (00_scope.md R11): the core's perform step (10_state.md R26),
the host's accesses, the reset input (70_reset_and_hazards.md R290); and the buffer hazard of R298. -/

namespace Sys2Proof.Machine

/-- The ranges of M, as address and length, that a command reads (20_memory.md R60): the SRC range of
CBCENC and CBCDEC, the identifiers of KDF. -/
def readRanges (i : Instr) (s : State) : List (Nat × Nat) :=
  match i with
  | .kdf => [(s.idaAddr.toNat, s.idaLen.toNat), (s.idbAddr.toNat, s.idbLen.toNat)]
  | .cbcenc | .cbcdec => [(s.srcAddr.toNat, s.srcLen.toNat)]
  | .nop | .gfmul _ _ | .sbox _ | .isbox _ | .mov _ _ | .sub _ _ | .isub _ _ | .rot _ _ | .irot _ _
  | .mix _ _ | .imix _ _ | .xor _ _ | .xkey _ _ | .xrk _ _ _ | .rkey _ _ | .round _ _ _
  | .iround _ _ _ | .encb _ _ | .decb _ _ | .valid => []

/-- The DST range of a pending command (R298). Before it is performed that of CBCDEC is the longest it
can be: a plaintext has at most SRC_LEN - 17 bytes (46_cbc.md R226) and at most DST_CAP are written. -/
def writeRanges (i : Instr) (s : State) : List (Nat × Nat) :=
  match i with
  | .cbcenc => [(s.dstAddr.toNat, envelopeLength s.srcLen.toNat)]
  | .cbcdec => [(s.dstAddr.toNat, min s.dstCap.toNat (s.srcLen.toNat - 17))]
  | .kdf | .nop | .gfmul _ _ | .sbox _ | .isbox _ | .mov _ _ | .sub _ _ | .isub _ _ | .rot _ _
  | .irot _ _ | .mix _ _ | .imix _ _ | .xor _ _ | .xkey _ _ | .xrk _ _ _ | .rkey _ _ | .round _ _ _
  | .iround _ _ _ | .encb _ _ | .decb _ _ | .valid => []

/-- The ranges a pending command reads or writes (R298). -/
def usedRanges (i : Instr) (s : State) : List (Nat × Nat) := readRanges i s ++ writeRanges i s

/-- Ranges of the pending command, none while idle or for an illegal word. -/
def State.pendingRanges (s : State) (ranges : Instr → State → List (Nat × Nat)) : List (Nat × Nat) :=
  match s.pend.bind decode with
  | some i => ranges i s
  | none => []

/-- The ranges in use now. -/
def State.rangesInUse (s : State) : List (Nat × Nat) := s.pendingRanges usedRanges

/-- The ranges the pending command is to write. -/
def State.rangesToWrite (s : State) : List (Nat × Nat) := s.pendingRanges writeRanges

/-- The `n` bytes at `a` meet one of the ranges. -/
def meetsRange (rs : List (Nat × Nat)) (a n : Nat) : Bool := rs.any fun r => Overlap a n r.1 r.2

/-- The perform step (R26): decode PEND and carry the command out; an illegal word raises ILLEGAL_CMD
(30_encoding.md R85); "When BUSY = 0 the core has no enabled step". -/
def coreTurn (s : State) : Host.Outcome State Fault Refusal :=
  match s.pend with
  | none => .next s
  | some w =>
    match decode w with
    | some i => exec i s
    | none => .next (s.raise .illegalCmd)

/-- A host read of `n` bytes of M under the parameters `P`; it changes nothing (R68). In a range the
pending command is to write it is a fault (93_implementation_defined.md I10, 92_eei_decisions.md D27). -/
def hostReadMem (P : Params) (a n : Nat) (s : State) : Host.Outcome State Fault Refusal :=
  if ¬ InRange P a n then .refused .hostOutsideM
  else if meetsRange s.rangesToWrite a n then .fault .bufferHazard
  else .next (s.respond (.bytes (s.mem.readBytes a n)))

/-- A host write of bytes of M under the parameters `P`; inside a range in use it is a fault (R298). -/
def hostWriteMem (P : Params) (a : Nat) (bs : Bytes) (s : State) : Host.Outcome State Fault Refusal :=
  if ¬ InRange P a bs.length then .refused .hostOutsideM
  else if meetsRange s.rangesInUse a bs.length then .fault .bufferHazard
  else .next ((s.writeM a bs).respond .ack)

/-- One access of the host. -/
def hostTurn (a : HostAccess) (s : State) : Host.Outcome State Fault Refusal :=
  match a with
  | .readReg o w => .next (s.hostReadReg o w)
  | .writeReg o w x => .next (s.hostWriteReg o w x)
  | .readMem a n => hostReadMem Config.params a n s
  | .writeMem a bs => hostWriteMem Config.params a bs s

/-- One turn of one agent. -/
def takeTurn (t : Turn) (s : State) : Host.Outcome State Fault Refusal :=
  match t with
  | .host a => hostTurn a s
  | .core => coreTurn s
  | .hardReset => .next s.resetRegisters

/-- Whose turn it is and the turns left after it; with none listed it is the core's. -/
def nextTurn (ts : List Turn) : Turn × List Turn :=
  match ts with
  | [] => (.core, [])
  | t :: rest => (t, rest)

/-- `s` with the word `w` accepted as the pending command and the core's turn next. -/
def State.fetched (s : State) (w : Word) : State := (s.accept w).setInbox (.core :: s.inbox)

end Sys2Proof.Machine
end

