-- ==== Sys2Proof/Machine/Step.lean ====
section
/-! DEFINITION. One step of the machine: the next turn of the schedule in State. -/

namespace Sys2Proof.Machine

/-- One step: the agent whose turn it is takes it. The core and the host "interleave in any order"
(10_state.md R26): the order is the list of turns in State, and a statement about every state is a
statement about every order. -/
def step (s : State) : Host.Outcome State Fault Refusal :=
  takeTurn (nextTurn s.inbox).1 (s.setInbox (nextTurn s.inbox).2)

/-- `s` with the instruction word of a table row where the next perform step decodes it: accepted as a
write to CMD is (R28), with the core's turn next. A command has 32 bits (30_encoding.md R80). -/
def State.withFetchWord (s : State) (nbits w : Nat) : State :=
  s.fetched (BitVec.ofNat 32 (w % 2 ^ nbits))

end Sys2Proof.Machine
end

