-- ==== Sys2Proof/Safety.lean ====
section
/-! DEFINITION. The terms claims are stated in: the invariant of the machine, what a safe step is, and
the frames of the commands (which part of the state each may write). -/

namespace Sys2Proof.Machine

/-- What holds of every state a run can reach: M is in its one form and inside 0..MEM_SIZE-1
(20_memory.md R61), a pending word is the one CMD shows and DONE is 0 while it waits (10_state.md R26,
R28), and ERRCODE never holds the reserved code (60_exceptions.md R262). -/
structure State.Inv (s : State) : Prop where
  memWf : s.mem.wf
  memInside : ∀ c ∈ s.mem, c.1 < Config.params.memSize
  pendIsCmd : ∀ w, s.pend = some w → s.cmd = w ∧ s.done = false
  codeRaised : s.errcode ≠ .malformedEncoding

/-- A safe step: it does not fault, so no host access breaks the buffer hazard (R298). -/
def State.SafeStep (s : State) : Prop := ∀ f, step s ≠ .fault f

/-- The next step is the core's, and `rest` are the turns left after it. -/
def State.CoreHasTurn (s : State) (rest : List Turn) : Prop :=
  s.inbox = .core :: rest ∨ (s.inbox = [] ∧ rest = [])

/-- From `s` to `t` only RESULT, now `x`, and the bookkeeping of a success (R266) changed. -/
def WroteResult (s t : State) (x : Word) : Prop :=
  t = { s with result := x, pend := none, done := true, errcode := .ok }

/-- From `s` to `t` only `V[vd]`, now `b`, and the bookkeeping of a success (R266) changed. -/
def WroteV (s t : State) (vd : VReg) (b : Block) : Prop :=
  t = { s with v := t.v, pend := none, done := true, errcode := .ok } ∧
    t.v[vd] = b ∧ ∀ n : VReg, n ≠ vd → t.v[n] = s.v[n]

/-- From `s` to `t` only the bookkeeping of an error with code `c` (R266) changed. -/
def EndedWith (s t : State) (c : Code) : Prop :=
  t = { s with pend := none, done := true, errcode := c, err := true }

/-- The block register a command writes. -/
def destV : Instr → Option VReg
  | .mov vd _ | .sub vd _ | .isub vd _ | .rot vd _ | .irot vd _ | .mix vd _ | .imix vd _
  | .xor vd _ | .xkey vd _ | .xrk vd _ _ | .rkey vd _ | .round vd _ _ | .iround vd _ _
  | .encb vd _ | .decb vd _ => some vd
  | .nop | .gfmul _ _ | .sbox _ | .isbox _ | .kdf | .cbcenc | .cbcdec | .valid => none

/-- The commands that write RESULT on success (10_state.md R29). -/
def writesResult : Instr → Bool
  | .gfmul _ _ | .sbox _ | .isbox _ | .cbcenc | .cbcdec | .valid => true
  | .nop | .mov _ _ | .sub _ _ | .isub _ _ | .rot _ _ | .irot _ _ | .mix _ _ | .imix _ _
  | .xor _ _ | .xkey _ _ | .xrk _ _ _ | .rkey _ _ | .round _ _ _ | .iround _ _ _
  | .encb _ _ | .decb _ _ | .kdf => false

/-- The bytes of M that a command stores to from `s`, as address and length, when it ends in `t` with
code 0: CBCENC its envelope, CBCDEC the plaintext whose length it leaves in RESULT; the others none. -/
def storedRange (i : Instr) (s t : State) : Nat × Nat :=
  match i with
  | .cbcenc => (s.dstAddr.toNat, envelopeLength s.srcLen.toNat)
  | .cbcdec => (s.dstAddr.toNat, t.result.toNat)
  | .nop | .gfmul _ _ | .sbox _ | .isbox _ | .mov _ _ | .sub _ _ | .isub _ _ | .rot _ _ | .irot _ _
  | .mix _ _ | .imix _ _ | .xor _ _ | .xkey _ _ | .xrk _ _ _ | .rkey _ _ | .round _ _ _
  | .iround _ _ _ | .encb _ _ | .decb _ _ | .kdf | .valid => (0, 0)

/-- Address `a` lies in the range `r`. -/
abbrev InsideRange (r : Nat × Nat) (a : Nat) : Prop := r.1 ≤ a ∧ a < r.1 + r.2

end Sys2Proof.Machine
end

