-- ==== Sys2Proof/Certificates/Slice0/Obligations.lean ====
section
/-! DEFINITION. The statements for the provers. A record update `{ s with … }` names every field that
changes; every other field of State (registers, flags, M, the agents around the core) is unchanged.
`Config.params` is this hardware's configuration, of which only R4's constraints are known. Statements
about CBCENC and CBCDEC that need a buffer in range are made for every configuration `P`, since
MEM_SIZE may be too small for one, beside the fact that `exec` is the case `P = Config.params`. -/

open Sys2Proof Sys2Proof.Machine

/-! ## Encoding (30_encoding.md) -/

/-- Every command, with every operand value, decodes from its own word. -/
def Obligations.DecodeInvertsEncode : Prop :=
  ∀ i : Instr, decode (encode i) = some i

/-- Every word that decodes is the word of what it decodes to, so no command has a second word (R83),
and at most one row of the opcode map selects a word (R84). -/
def Obligations.DecodingIsUnambiguous : Prop :=
  (∀ (w : Word) (i : Instr), decode w = some i → encode i = w) ∧
    ∀ (w : Word) (r q : Row), r ∈ opcodeTable → q ∈ opcodeTable → r.selects w = true →
      q.selects w = true → r = q

namespace Sys2Proof.Claims

/-- "the 233 unassigned OP values (0x04-0x0F, 0x1D-0x1F, 0x22-0x2F, 0x31-0x3F, 0x43-0xFF)" (R85). -/
def UnassignedOp (op : Nat) : Prop :=
  (0x04 ≤ op ∧ op ≤ 0x0F) ∨ (0x1D ≤ op ∧ op ≤ 0x1F) ∨ (0x22 ≤ op ∧ op ≤ 0x2F) ∨
    (0x31 ≤ op ∧ op ≤ 0x3F) ∨ (0x43 ≤ op ∧ op ≤ 0xFF)

/-- The bits of a word with an assigned OP that must be 0: the mask of its class less OP (R83, R84). -/
def mustBeZero (op : Nat) : Word :=
  if op = 0x01 then 0x0000FF00
  else if op = 0x02 ∨ op = 0x03 then 0xFF00FF00
  else if (0x10 ≤ op ∧ op ≤ 0x18) ∨ op = 0x20 ∨ op = 0x21 then 0xFFFFF000
  else if op = 0x19 ∨ op = 0x1B ∨ op = 0x1C then 0xFF00F000
  else if op = 0x1A then 0xFF00FC00
  else 0xFFFFFF00

/-- The illegal words of R85. -/
def IllegalWord (w : Word) : Prop :=
  UnassignedOp (w.extractLsb' 0 8).toNat ∨ w &&& mustBeZero (w.extractLsb' 0 8).toNat ≠ 0

end Sys2Proof.Claims

open Sys2Proof.Claims

/-- R85: exactly the words of its list are illegal, and the perform step of one raises ILLEGAL_CMD and
changes nothing else. -/
def Obligations.IllegalWordRaisesIllegalCmd : Prop :=
  (∀ w : Word, decode w = none ↔ IllegalWord w) ∧
    ∀ (w : Word) (s : State) (rest : List Turn), IllegalWord w → s.pend = some w → s.CoreHasTurn rest →
      step s = .next { s with
        inbox := rest, pend := none, done := true, errcode := .illegalCmd, err := true }

/-- Words written out from the encodings of R81 and R84, one for each family. -/
def Obligations.WordsOfTheMapDecode : Prop :=
  decode 0x00000000 = some .nop ∧
  decode 0x83570001 = some (.gfmul 0x57 0x83) ∧
  decode 0x00530002 = some (.sbox 0x53) ∧
  decode 0x00010B19 = some (.xrk 3 2 1) ∧
  decode 0x0002031A = some (.rkey 3 2) ∧
  decode 0x0002061C = some (.iround 2 1 2) ∧
  decode 0x00000621 = some (.decb 2 1) ∧
  decode 0x00000040 = some .cbcenc ∧
  decode 0x0002071A = none ∧
  decode 0x80000041 = none

namespace Sys2Proof.Claims

/-- The operands of a command as R88 writes them, the destination first. -/
def operandsOf : Instr → List Operand
  | .nop | .kdf | .cbcenc | .cbcdec | .valid => []
  | .gfmul a b => [.imm a.toNat, .imm b.toNat]
  | .sbox x | .isbox x => [.imm x.toNat]
  | .mov vd vs | .sub vd vs | .isub vd vs | .rot vd vs | .irot vd vs | .mix vd vs | .imix vd vs
  | .xor vd vs | .xkey vd vs | .encb vd vs | .decb vd vs => [.reg vd.val, .reg vs.val]
  | .xrk vd vs r | .round vd vs r | .iround vd vs r => [.reg vd.val, .reg vs.val, .imm r.toNat]
  | .rkey vd r => [.reg vd.val, .imm r.toNat]

end Sys2Proof.Claims

/-- A line the assembler takes becomes a word that decodes to the command of the line's row with the
line's operands, destination first; the line of every command becomes its word; and a line with an
operand out of range is refused (R88). -/
def Obligations.AssembledLinesDecode : Prop :=
  (∀ (l : SourceLine) (w : Word), assemble l = some w →
    ∃ i, decode w = some i ∧ i.opcode = l.expand.1 ∧ operandsOf i = l.expand.2) ∧
  (∀ i : Instr, assemble ⟨.cmd i.opcode, operandsOf i⟩ = some (encode i)) ∧
  ∀ l : SourceLine, (∃ n, (.reg n ∈ l.operands ∧ 4 ≤ n) ∨ (.imm n ∈ l.operands ∧ 256 ≤ n)) →
    assemble l = none

/-- R89: `CLR vD` = `XOR vD, vD`, which zeroes V[D]; `WHITEN vD` = `XKEY vD, vD`, V[D] xor KEY in place. -/
def Obligations.PseudoInstructions : Prop :=
  ∀ d : VReg,
    assemble ⟨.clr, [.reg d.val]⟩ = some (encode (.xor d d)) ∧
    assemble ⟨.whiten, [.reg d.val]⟩ = some (encode (.xkey d d)) ∧
    ∀ s : State,
      (∃ t, exec (.xor d d) s = .next t ∧ WroteV s t d (Vector.replicate 16 0)) ∧
      ∃ t b, exec (.xkey d d) s = .next t ∧ WroteV s t d b ∧
        ∀ i : Fin 16, b[i] = s.v[d][i] ^^^ s.key[i]

/-! ## Control and field arithmetic (40_control.md, 41_field.md) -/

/-- R100: NOP is the word 0, a word with OP 0x00 and any other bit set is illegal, and NOP only completes. -/
def Obligations.NopOnlyCompletes : Prop :=
  decode 0 = some .nop ∧
    (∀ w : Word, w.extractLsb' 0 8 = 0 → w ≠ 0 → decode w = none) ∧
    ∀ s : State, exec .nop s = .next { s with pend := none, done := true, errcode := .ok }

/-- R110: the byte `gfmul a b` is the remainder of the product of the polynomials of `a` and `b` on
division by X^8 + X^4 + X^3 + X + 1 (a byte's polynomial has degree below 8, so the remainder is
unique). -/
def Obligations.GfmulIsPolynomialProduct : Prop :=
  ∀ a b : Byte, ∃ q : Polynomial (ZMod 2),
    (∑ i : Fin 8, if a.getLsbD i then Polynomial.X ^ i.val else 0) *
        (∑ i : Fin 8, if b.getLsbD i then Polynomial.X ^ i.val else 0) =
      (∑ i : Fin 8, if (gfmul a b).getLsbD i then Polynomial.X ^ i.val else 0) +
        q * (Polynomial.X ^ 8 + Polynomial.X ^ 4 + Polynomial.X ^ 3 + Polynomial.X + 1)

/-- The laws of 41_field.md R113, which the spec derives from R110. -/
def Obligations.GfmulFieldLaws : Prop :=
  (∀ a b, gfmul a b = gfmul b a) ∧
  (∀ a b c, gfmul (gfmul a b) c = gfmul a (gfmul b c)) ∧
  (∀ a b c, gfmul a (b ^^^ c) = gfmul a b ^^^ gfmul a c) ∧
  (∀ a, gfmul 1 a = a) ∧ (∀ a, gfmul 0 a = 0) ∧
  ∀ a, a ≠ 0 → ∃ b, gfmul a b = 1 ∧ ∀ c, gfmul a c = 1 → c = b

/-- R112: GFMUL's encoding, its result and nothing else. -/
def Obligations.GfmulCommand : Prop :=
  ∀ a b : Byte, decode (b ++ a ++ (0x0001 : BitVec 16)) = some (.gfmul a b) ∧
    ∀ s : State, ∃ t, exec (.gfmul a b) s = .next t ∧ WroteResult s t ((gfmul a b).setWidth 32)

/-! ## Substitution (42_substitution.md) -/

/-- R120, R121: SBOX and ISBOX, their encodings, results and nothing else. -/
def Obligations.SboxCommands : Prop :=
  ∀ x : Byte,
    decode ((0 : BitVec 8) ++ x ++ (0x0002 : BitVec 16)) = some (.sbox x) ∧
    decode ((0 : BitVec 8) ++ x ++ (0x0003 : BitVec 16)) = some (.isbox x) ∧
    ∀ s : State,
      (∃ t, exec (.sbox x) s = .next t ∧ WroteResult s t ((Config.params.sbox x).setWidth 32)) ∧
      ∃ t, exec (.isbox x) s = .next t ∧ WroteResult s t ((Config.params.invSbox x).setWidth 32)

namespace Sys2Proof.Claims

/-- The word of class R2 with opcode `op`, or of R2I with round index `r`: bit 31 first,
`00000000 AAAAAAAA 0000 SSDD OOOOOOOO` (R81). -/
def regWord (op : BitVec 8) (vd vs : VReg) (r : Byte) : Word :=
  (0 : BitVec 8) ++ r ++ (0 : BitVec 4) ++ BitVec.ofNat 2 vs.val ++ BitVec.ofNat 2 vd.val ++ op

/-- The command `i` with opcode `op` and destination `vd` has the word of R81, completes from every
state, and writes `V[vd]`, each byte as `val` says, and nothing else. -/
def BlockCommand (op : BitVec 8) (vd vs : VReg) (r : Byte) (i : Instr) (val : State → Fin 16 → Byte) : Prop :=
  decode (regWord op vd vs r) = some i ∧
    ∀ s : State, ∃ t b, exec i s = .next t ∧ WroteV s t vd b ∧ ∀ k : Fin 16, b[k] = val s k

/-- Byte in row `r`, column `c` of the state matrix of `b`: `S[4r + c]` (R8). -/
def cell (b : Block) (r c : Fin 4) : Byte := b[4 * r.val + c.val]

end Sys2Proof.Claims

/-- R122, R123: SUB and ISUB, byte by byte; VD = VS included (the source is read whole first). -/
def Obligations.SubstitutionCommands : Prop :=
  ∀ vd vs : VReg,
    BlockCommand 0x11 vd vs 0 (.sub vd vs) (fun s k => Config.params.sbox s.v[vs][k]) ∧
    BlockCommand 0x12 vd vs 0 (.isub vd vs) (fun s k => Config.params.invSbox s.v[vs][k])

/-! ## Round functions (43_round.md) -/

/-- R140, R141, R144, R145: ROT moves row r of the state left by r positions, IROT right. -/
def Obligations.RotateRowsCommands : Prop :=
  ∀ vd vs : VReg,
    decode (regWord 0x13 vd vs 0) = some (.rot vd vs) ∧
    decode (regWord 0x14 vd vs 0) = some (.irot vd vs) ∧
    ∀ s : State,
      (∃ t b, exec (.rot vd vs) s = .next t ∧ WroteV s t vd b ∧
        ∀ r j : Fin 4, cell b r j = cell s.v[vs] r (j + r)) ∧
      ∃ t b, exec (.irot vd vs) s = .next t ∧ WroteV s t vd b ∧
        ∀ r j : Fin 4, cell b r j = cell s.v[vs] r (j - r)

/-- R142, R143, R146, R147: MIX and IMIX multiply every column of the state by the matrix. -/
def Obligations.MixColumnsCommands : Prop :=
  ∀ vd vs : VReg,
    decode (regWord 0x15 vd vs 0) = some (.mix vd vs) ∧
    decode (regWord 0x16 vd vs 0) = some (.imix vd vs) ∧
    ∀ s : State,
      (∃ t b, exec (.mix vd vs) s = .next t ∧ WroteV s t vd b ∧ ∀ r c : Fin 4, cell b r c =
        gfmul (Config.params.mix r 0) (cell s.v[vs] 0 c) ^^^ gfmul (Config.params.mix r 1) (cell s.v[vs] 1 c) ^^^
        gfmul (Config.params.mix r 2) (cell s.v[vs] 2 c) ^^^ gfmul (Config.params.mix r 3) (cell s.v[vs] 3 c)) ∧
      ∃ t b, exec (.imix vd vs) s = .next t ∧ WroteV s t vd b ∧ ∀ r c : Fin 4, cell b r c =
        gfmul (Config.params.invMix r 0) (cell s.v[vs] 0 c) ^^^ gfmul (Config.params.invMix r 1) (cell s.v[vs] 1 c) ^^^
        gfmul (Config.params.invMix r 2) (cell s.v[vs] 2 c) ^^^ gfmul (Config.params.invMix r 3) (cell s.v[vs] 3 c)

/-- The laws 42_substitution.md R124 and 43_round.md R141, R143 derive: for every configuration the
substitutions, the row rotations and the column mixes are inverse both ways, and four rotations are
the identity. -/
def Obligations.LayersInvert : Prop :=
  ∀ P : Params, (∀ x, P.invSbox (P.sbox x) = x) ∧ (∀ x, P.sbox (P.invSbox x) = x) ∧
    ∀ b : Block,
      invSubBlock P (subBlock P b) = b ∧ subBlock P (invSubBlock P b) = b ∧
      invRotBlock (rotBlock b) = b ∧ rotBlock (invRotBlock b) = b ∧
      rotBlock (rotBlock (rotBlock (rotBlock b))) = b ∧
      invMixBlock P (mixBlock P b) = b ∧ mixBlock P (invMixBlock P b) = b

/-- R148, R149, R150: MOV, XOR and XKEY. -/
def Obligations.MoveAndXorCommands : Prop :=
  ∀ vd vs : VReg,
    BlockCommand 0x10 vd vs 0 (.mov vd vs) (fun s k => s.v[vs][k]) ∧
    BlockCommand 0x17 vd vs 0 (.xor vd vs) (fun s k => s.v[vd][k] ^^^ s.v[vs][k]) ∧
    BlockCommand 0x18 vd vs 0 (.xkey vd vs) (fun s k => s.v[vs][k] ^^^ s.key[k])

/-- R181, R151, R184: XRK and RKEY use the first 16 bytes of `H256(KEY ‖ byte(r))`, for every r. -/
def Obligations.RoundKeyCommands : Prop :=
  ∀ (vd vs : VReg) (r : Byte),
    BlockCommand 0x19 vd vs r (.xrk vd vs r)
      (fun s k => s.v[vs][k] ^^^ (Config.params.h256 (s.key.toList ++ [r]))[k.val]) ∧
    BlockCommand 0x1A vd 0 r (.rkey vd r)
      (fun s k => (Config.params.h256 (s.key.toList ++ [r]))[k.val])

/-- R152-R155: ROUND substitutes, rotates, mixes unless r = 2, and adds the round key; IROUND takes off
the round key, unmixes unless r = 2, rotates back, substitutes back. -/
def Obligations.RoundCommands : Prop :=
  ∀ (vd vs : VReg) (r : Byte),
    decode (regWord 0x1B vd vs r) = some (.round vd vs r) ∧
    decode (regWord 0x1C vd vs r) = some (.iround vd vs r) ∧
    ∀ s : State,
      (∃ t, exec (.round vd vs r) s = .next t ∧
        WroteV s t vd (xorBlock
          (if r = 2 then rotBlock (subBlock Config.params s.v[vs])
            else mixBlock Config.params (rotBlock (subBlock Config.params s.v[vs])))
          (roundKey Config.params s.key r))) ∧
      ∃ t, exec (.iround vd vs r) s = .next t ∧
        WroteV s t vd (invSubBlock Config.params (invRotBlock
          (if r = 2 then xorBlock s.v[vs] (roundKey Config.params s.key r)
            else invMixBlock Config.params (xorBlock s.v[vs] (roundKey Config.params s.key r)))))

/-- 43_round.md R153: the decryption round undoes the encryption round, and the other way. -/
def Obligations.RoundInverse : Prop :=
  ∀ (P : Params) (b k : Block) (r : Byte),
    invRoundBlock P (roundBlock P b k r) k r = b ∧ roundBlock P (invRoundBlock P b k r) k r = b

/-! ## Key derivation (44_key_derivation.md) -/

/-- R182, R183 with the order of R180: KDF hashes the smaller identifier, the larger, the salt. -/
def Obligations.KdfCommand : Prop :=
  decode 0x00000030 = some .kdf ∧
  ∀ s : State,
    (¬ (InRange Config.params s.idaAddr.toNat s.idaLen.toNat ∧
        InRange Config.params s.idbAddr.toNat s.idbLen.toNat) →
      ∃ t, exec .kdf s = .next t ∧ EndedWith s t .busError) ∧
    (InRange Config.params s.idaAddr.toNat s.idaLen.toNat →
      InRange Config.params s.idbAddr.toNat s.idbLen.toNat →
      ∃ k : Block, exec .kdf s = .next { s with key := k, pend := none, done := true, errcode := .ok } ∧
        ∀ (a b : Bytes), a = s.mem.readBytes s.idaAddr.toNat s.idaLen.toNat →
          b = s.mem.readBytes s.idbAddr.toNat s.idbLen.toNat →
          ∀ i : Fin 16, k[i] = (Config.params.h256
            (if lexLe a b then a ++ b ++ Config.params.salt else b ++ a ++ Config.params.salt))[i.val])

/-- R180: `A <=lex B` is equality, a proper prefix, or a smaller unsigned byte at the first difference;
`Sorted(A, B)` is the pair in that order. -/
def Obligations.LexicographicOrder : Prop :=
  ∀ a b : Bytes,
    (lexLe a b = true ↔
      (a = b ∨ (a <+: b ∧ a ≠ b) ∨
        ∃ (p : Bytes) (x y : Byte) (u w : Bytes), a = p ++ x :: u ∧ b = p ++ y :: w ∧ x.toNat < y.toNat)) ∧
    (lexLe a b = true → sortedPair a b = (a, b)) ∧ (lexLe a b = false → sortedPair a b = (b, a))

/-- 44_key_derivation.md R185: the Key does not depend on the order of the identifiers. -/
def Obligations.KeyOrderIndependence : Prop :=
  ∀ (P : Params) (a b : Bytes), deriveKey P a b = deriveKey P b a

/-! ## Block cipher (45_block_cipher.md) -/

/-- R200, R201, R204, R205: ENCB whitens with KEY and applies the rounds 0, 1, 2; DECB applies the
inverse rounds 2, 1, 0 and takes the whitening off. -/
def Obligations.BlockCipherCommands : Prop :=
  ∀ vd vs : VReg,
    decode (regWord 0x20 vd vs 0) = some (.encb vd vs) ∧
    decode (regWord 0x21 vd vs 0) = some (.decb vd vs) ∧
    ∀ s : State,
      (∃ t, exec (.encb vd vs) s = .next t ∧
        WroteV s t vd (roundBlock Config.params (roundBlock Config.params (roundBlock Config.params
          (xorBlock s.v[vs] s.key) s.key 0) s.key 1) s.key 2)) ∧
      ∃ t, exec (.decb vd vs) s = .next t ∧
        WroteV s t vd (xorBlock (invRoundBlock Config.params (invRoundBlock Config.params
          (invRoundBlock Config.params s.v[vs] s.key 2) s.key 1) s.key 0) s.key)

/-- 45_block_cipher.md R203: encryption and decryption are inverse both ways, for every configuration. -/
def Obligations.BlockCipherSelfInverse : Prop :=
  ∀ (P : Params) (b k : Block),
    decryptBlock P (encryptBlock P b k) k = b ∧ encryptBlock P (decryptBlock P b k) k = b

/-! ## CBC (46_cbc.md) -/

/-- R221, R222: the padded message is the message and v bytes of value v, v = 16 - (len mod 16); `Unpad`
looks at the last byte only: bad outside 1..16, else that many bytes are cut off. -/
def Obligations.PaddingAndUnpadding : Prop :=
  (∀ m : Bytes, ∃ v : Nat, v = 16 - m.length % 16 ∧ 1 ≤ v ∧ v ≤ 16 ∧
    pad m = m ++ List.replicate v (BitVec.ofNat 8 v) ∧
    (pad m).length = 16 * (m.length / 16 + 1) ∧ (pad m).getLast? = some (BitVec.ofNat 8 v)) ∧
  ∀ (p : Bytes) (x : Byte), 16 ≤ (p ++ [x]).length →
    (x.toNat < 1 ∨ 16 < x.toNat → unpad (p ++ [x]) = none) ∧
    (1 ≤ x.toNat → x.toNat ≤ 16 →
      unpad (p ++ [x]) = some ((p ++ [x]).take ((p ++ [x]).length - x.toNat)))

namespace Sys2Proof.Claims

/-- All the checks of CBCENC before its draw pass (R225). -/
def CbcencAccepts (P : Params) (s : State) : Prop :=
  InRange P s.srcAddr.toNat s.srcLen.toNat ∧
  16 * (s.srcLen.toNat / 16 + 2) ≤ s.dstCap.toNat ∧
  InRange P s.dstAddr.toNat (16 * (s.srcLen.toNat / 16 + 2)) ∧
  ¬ Overlap s.srcAddr.toNat s.srcLen.toNat s.dstAddr.toNat (16 * (s.srcLen.toNat / 16 + 2))

/-- All the checks of CBCDEC pass, and `p` is the plaintext (R226). -/
def CbcdecAccepts (P : Params) (s : State) (p : Bytes) : Prop :=
  32 ≤ s.srcLen.toNat ∧ s.srcLen.toNat % 16 = 0 ∧
  InRange P s.srcAddr.toNat s.srcLen.toNat ∧
  cbcDecrypt P (s.mem.readBytes s.srcAddr.toNat s.srcLen.toNat) s.key = some p ∧
  p.length ≤ s.dstCap.toNat ∧
  InRange P s.dstAddr.toNat p.length ∧
  ¬ Overlap s.srcAddr.toNat s.srcLen.toNat s.dstAddr.toNat p.length

/-- The errors of CBCENC, each where it is the first check that fails (R225, R264). -/
def CbcencErrors (P : Params) (s : State) (n out : Nat) : Prop :=
  (¬ InRange P s.srcAddr.toNat n → EndedWith s (cbcencUnder P s) .busError) ∧
  (InRange P s.srcAddr.toNat n → s.dstCap.toNat < out → EndedWith s (cbcencUnder P s) .capacity) ∧
  (InRange P s.srcAddr.toNat n → out ≤ s.dstCap.toNat → ¬ InRange P s.dstAddr.toNat out →
    EndedWith s (cbcencUnder P s) .busError) ∧
  (InRange P s.srcAddr.toNat n → out ≤ s.dstCap.toNat → InRange P s.dstAddr.toNat out →
    Overlap s.srcAddr.toNat n s.dstAddr.toNat out → EndedWith s (cbcencUnder P s) .overlap) ∧
  (CbcencAccepts P s → s.nextDraw = none → EndedWith s.drawn (cbcencUnder P s) .entropyError)

/-- The errors of CBCDEC, each where it is the first check that fails (R226, R264). -/
def CbcdecErrors (P : Params) (s : State) (len : Nat) : Prop :=
  (len < 32 ∨ len % 16 ≠ 0 → EndedWith s (cbcdecUnder P s) .invalidLength) ∧
  (32 ≤ len → len % 16 = 0 → ¬ InRange P s.srcAddr.toNat len →
    EndedWith s (cbcdecUnder P s) .busError) ∧
  (32 ≤ len → len % 16 = 0 → InRange P s.srcAddr.toNat len →
    cbcDecrypt P (s.mem.readBytes s.srcAddr.toNat len) s.key = none →
    EndedWith s (cbcdecUnder P s) .invalidPadding) ∧
  ∀ p, 32 ≤ len → len % 16 = 0 → InRange P s.srcAddr.toNat len →
    cbcDecrypt P (s.mem.readBytes s.srcAddr.toNat len) s.key = some p →
    (s.dstCap.toNat < p.length → EndedWith s (cbcdecUnder P s) .capacity) ∧
    (p.length ≤ s.dstCap.toNat → ¬ InRange P s.dstAddr.toNat p.length →
      EndedWith s (cbcdecUnder P s) .busError) ∧
    (p.length ≤ s.dstCap.toNat → InRange P s.dstAddr.toNat p.length →
      Overlap s.srcAddr.toNat len s.dstAddr.toNat p.length → EndedWith s (cbcdecUnder P s) .overlap)

end Sys2Proof.Claims

/-- R223, R224: the ciphertext is the IV and then, for each block i of the padded message, E of it xor
the block before; the plaintext block i is D of the ciphertext block xor the raw block before it. -/
def Obligations.CbcChaining : Prop :=
  (∀ (P : Params) (m : Bytes) (k iv : Block) (i : Nat), i < m.length / 16 + 1 →
    (cbcEncrypt P m k iv).length = 16 * (m.length / 16 + 2) ∧
    (blocksOf (cbcEncrypt P m k iv)).getD 0 zeroBlock = iv ∧
    (blocksOf (cbcEncrypt P m k iv)).getD (i + 1) zeroBlock =
      encryptBlock P (xorBlock ((blocksOf (pad m)).getD i zeroBlock)
        ((blocksOf (cbcEncrypt P m k iv)).getD i zeroBlock)) k) ∧
  ∀ (P : Params) (x : Bytes) (k : Block) (i : Nat), 32 ≤ x.length → x.length % 16 = 0 →
    i < x.length / 16 - 1 →
    cbcDecrypt P x k = unpad (cbcRecover P x k) ∧
    (cbcRecover P x k).length = x.length - 16 ∧
    (blocksOf (cbcRecover P x k)).getD i zeroBlock =
      xorBlock (decryptBlock P ((blocksOf x).getD (i + 1) zeroBlock) k) ((blocksOf x).getD i zeroBlock)

/-- R225. When every check passes and the entropy source answers `ivv`, CBCENC stores the envelope at
DST_ADDR, which reads back whole, leaves every other byte of M, writes IV and RESULT, takes one draw
and changes nothing else; when one fails, the first that does ends it with its code and no effect. -/
def Obligations.CbcencCompletes : Prop :=
  (∀ (P : Params) (s : State) (ivv : Block), s.mem.wf → CbcencAccepts P s → s.nextDraw = some ivv →
    ∃ t, cbcencUnder P s = t ∧
      t = { s with
        mem := t.mem, iv := ivv, result := BitVec.ofNat 32 (16 * (s.srcLen.toNat / 16 + 2)),
        entropy := s.entropy.tail, draws := s.draws + 1, pend := none, done := true, errcode := .ok } ∧
      t.result.toNat = 16 * (s.srcLen.toNat / 16 + 2) ∧
      t.mem.readBytes s.dstAddr.toNat (16 * (s.srcLen.toNat / 16 + 2)) =
        cbcEncrypt P (s.mem.readBytes s.srcAddr.toNat s.srcLen.toNat) s.key ivv ∧
      ∀ a, a < s.dstAddr.toNat ∨ s.dstAddr.toNat + 16 * (s.srcLen.toNat / 16 + 2) ≤ a →
        t.mem.read a = s.mem.read a) ∧
  (∀ (P : Params) (s : State), CbcencErrors P s s.srcLen.toNat (16 * (s.srcLen.toNat / 16 + 2))) ∧
  decode 0x00000040 = some .cbcenc ∧
  ∀ s : State, exec .cbcenc s = .next (cbcencUnder Config.params s)

/-- R226. When every check passes, CBCDEC stores the plaintext at DST_ADDR, which reads back whole,
leaves every other byte of M, writes IV (the envelope's first block) and RESULT, and nothing else; when
one fails, the first that does ends it with its code and no effect. -/
def Obligations.CbcdecCompletes : Prop :=
  (∀ (P : Params) (s : State) (p : Bytes), s.mem.wf → CbcdecAccepts P s p →
    ∃ t, cbcdecUnder P s = t ∧
      t = { s with
        mem := t.mem, iv := t.iv, result := BitVec.ofNat 32 p.length,
        pend := none, done := true, errcode := .ok } ∧
      (∀ i : Fin 16, t.iv[i] = s.mem.read (s.srcAddr.toNat + i.val)) ∧
      t.result.toNat = p.length ∧ p.length + 17 ≤ s.srcLen.toNat ∧
      t.mem.readBytes s.dstAddr.toNat p.length = p ∧
      ∀ a, a < s.dstAddr.toNat ∨ s.dstAddr.toNat + p.length ≤ a → t.mem.read a = s.mem.read a) ∧
  (∀ (P : Params) (s : State), CbcdecErrors P s s.srcLen.toNat) ∧
  decode 0x00000041 = some .cbcdec ∧
  ∀ s : State, exec .cbcdec s = .next (cbcdecUnder Config.params s)

/-- R227: VALID writes 1 for a length of at least 32 that is a multiple of 16, else 0; no error. -/
def Obligations.ValidCommand : Prop :=
  decode 0x00000042 = some .valid ∧
  ∀ s : State,
    (32 ≤ s.srcLen.toNat ∧ s.srcLen.toNat % 16 = 0 → ∃ t, exec .valid s = .next t ∧ WroteResult s t 1) ∧
    (¬ (32 ≤ s.srcLen.toNat ∧ s.srcLen.toNat % 16 = 0) → ∃ t, exec .valid s = .next t ∧ WroteResult s t 0)

/-- R264: each command reports the first check that fails, in the order of its rule, for every
configuration; `exec` is the case of this hardware's. -/
def Obligations.FirstFailingCheckIsReported : Prop :=
  (∀ (P : Params) (s : State), CbcencErrors P s s.srcLen.toNat (16 * (s.srcLen.toNat / 16 + 2)) ∧
    CbcdecErrors P s s.srcLen.toNat) ∧
  (∀ s : State, ¬ InRange Config.params s.idaAddr.toNat s.idaLen.toNat ∨
      ¬ InRange Config.params s.idbAddr.toNat s.idbLen.toNat →
    ∃ t, exec .kdf s = .next t ∧ EndedWith s t .busError) ∧
  (∀ (s : State) (w : Word) (rest : List Turn), s.CoreHasTurn rest → s.pend = some w → decode w = none →
    ∃ t, step s = .next t ∧ EndedWith (s.setInbox rest) t .illegalCmd) ∧
  ∀ s : State, exec .cbcenc s = .next (cbcencUnder Config.params s) ∧
    exec .cbcdec s = .next (cbcdecUnder Config.params s)

/-- 46_cbc.md R228: an envelope of an n-byte message has 16 + 16 * ceil((n + 1) / 16) bytes, at least
32 and a multiple of 16. -/
def Obligations.EnvelopeLengthLaw : Prop :=
  ∀ (P : Params) (m : Bytes) (k iv : Block),
    (cbcEncrypt P m k iv).length = 16 + 16 * ⌈((m.length : ℚ) + 1) / 16⌉₊ ∧
    32 ≤ (cbcEncrypt P m k iv).length ∧ (cbcEncrypt P m k iv).length % 16 = 0

/-- 46_cbc.md R229, on byte strings: decryption gives every message back, for every configuration. -/
def Obligations.CbcRoundTrip : Prop :=
  ∀ (P : Params) (m : Bytes) (k iv : Block), cbcDecrypt P (cbcEncrypt P m k iv) k = some m

/-- 46_cbc.md R229, on the machine: a CBCDEC of the envelope that a CBCENC stored, with the same KEY and
a free buffer large enough, stores the message and leaves its length in RESULT. -/
def Obligations.StoredEnvelopeDecryptsBack : Prop :=
  ∀ (P : Params) (s t u w : State) (m : Bytes), s.mem.wf →
    cbcencUnder P s = t → t.errcode = .ok →
    m = s.mem.readBytes s.srcAddr.toNat s.srcLen.toNat →
    u.mem = t.mem → u.key = t.key → u.srcAddr = s.dstAddr → u.srcLen = t.result →
    m.length ≤ u.dstCap.toNat → InRange P u.dstAddr.toNat m.length →
    ¬ Overlap u.srcAddr.toNat u.srcLen.toNat u.dstAddr.toNat m.length →
    cbcdecUnder P u = w →
    w.errcode = .ok ∧ w.result = s.srcLen ∧ w.iv = t.iv ∧
      w.mem.readBytes u.dstAddr.toNat m.length = m

/-- 46_cbc.md R230: changing byte j of block i of an envelope (block 0 is the IV) changes the recovered
plaintext in block i, in byte j of block i + 1 by the same difference, and nowhere else. Recovered byte
q belongs to block q / 16 + 1. -/
def Obligations.ErrorPropagation : Prop :=
  ∀ (P : Params) (x : Bytes) (k : Block) (i j : Nat) (d : Byte), 32 ≤ x.length → x.length % 16 = 0 →
    i < x.length / 16 → j < 16 →
    ∀ y : Bytes, y = x.set (16 * i + j) (x.getD (16 * i + j) 0 ^^^ d) →
    (cbcRecover P y k).length = (cbcRecover P x k).length ∧
    (∀ q, q / 16 + 1 ≠ i → q / 16 + 1 ≠ i + 1 →
      (cbcRecover P y k).getD q 0 = (cbcRecover P x k).getD q 0) ∧
    (∀ q, q / 16 + 1 = i + 1 → q < (cbcRecover P x k).length → (cbcRecover P y k).getD q 0 =
      (cbcRecover P x k).getD q 0 ^^^ (if q % 16 = j then d else 0)) ∧
    ∀ q, q / 16 + 1 = i → (cbcRecover P y k).getD q 0 =
      (decryptBlock P (blockOf ((y.drop (16 * i)).take 16)) k).toList.getD (q % 16) 0 ^^^
        x.getD (16 * (i - 1) + q % 16) 0

/-! ## Completion, errors, frames (60_exceptions.md) -/

/-- R265, R266: the core's turn with a command pending always ends it, with the bookkeeping of R266 for
the code it leaves in ERRCODE; with none pending its turn changes nothing. The second clause is the
model's choice (log 2): R26 gives an idle core no enabled step, R279 says that it does nothing. -/
def Obligations.EveryPendingCommandCompletes : Prop :=
  (∀ (s : State) (w : Word) (rest : List Turn), s.pend = some w → s.CoreHasTurn rest →
    ∃ t, step s = .next t ∧ t.pend = none ∧ t.busy = false ∧ t.done = true ∧
      (t.errcode ≠ .ok → t.err = true) ∧ (t.errcode = .ok → t.err = s.err) ∧
      t.ign = s.ign ∧ t.cmd = s.cmd ∧ t.ie = s.ie) ∧
  ∀ (s : State) (rest : List Turn), s.pend = none → s.CoreHasTurn rest →
    step s = .next { s with inbox := rest }

/-- 60_exceptions.md R267, its error half and its 'no other' half: a command that ends with an error
changes no register and no byte of M; one that ends with code 0 writes nothing but what its rule states (a
block register, RESULT, KEY, IV, and the bytes it stores). That it makes those writes is said by the
statements of each command's result. -/
def Obligations.AllOrNothing : Prop :=
  ∀ (i : Instr) (s t : State), s.mem.wf → exec i s = .next t →
    (t.errcode ≠ .ok → t = { s with
      entropy := t.entropy, draws := t.draws, pend := none, done := true, errcode := t.errcode, err := true }) ∧
    (t.errcode = .ok →
      t = { s with
        v := t.v, result := t.result, key := t.key, iv := t.iv, mem := t.mem, entropy := t.entropy,
        draws := t.draws, pend := none, done := true, errcode := .ok } ∧
      (∀ n : VReg, destV i ≠ some n → t.v[n] = s.v[n]) ∧
      (writesResult i = false → t.result = s.result) ∧
      (i ≠ .kdf → t.key = s.key) ∧
      (i ≠ .cbcenc → i ≠ .cbcdec → t.iv = s.iv ∧ t.mem = s.mem) ∧
      (i ≠ .cbcenc → t.entropy = s.entropy ∧ t.draws = s.draws) ∧
      ∀ a, ¬ InsideRange (storedRange i s t) a → t.mem.read a = s.mem.read a)

/-- R263: which codes each command can end with. -/
def Obligations.CodesOfEachCommand : Prop :=
  (∀ (s t : State) (w : Word) (rest : List Turn), s.CoreHasTurn rest → s.pend = some w → step s = .next t →
    (decode w = none ↔ t.errcode = .illegalCmd)) ∧
  ∀ (i : Instr) (s t : State), exec i s = .next t →
    (i ≠ .kdf → i ≠ .cbcenc → i ≠ .cbcdec → t.errcode = .ok) ∧
    (i = .kdf → t.errcode = .ok ∨ t.errcode = .busError) ∧
    (i = .cbcenc → t.errcode = .ok ∨ t.errcode = .busError ∨ t.errcode = .capacity ∨
      t.errcode = .overlap ∨ t.errcode = .entropyError) ∧
    (i = .cbcdec → t.errcode = .ok ∨ t.errcode = .invalidLength ∨ t.errcode = .busError ∨
      t.errcode = .invalidPadding ∨ t.errcode = .capacity ∨ t.errcode = .overlap)

/-- 60_exceptions.md R275: one draw per CBCENC whose other checks pass, for every configuration; none by
anything else. CBCENC raises ENTROPY_ERROR exactly when that draw fails. -/
def Obligations.OneDrawPerCbcenc : Prop :=
  (∀ (P : Params) (s t : State), cbcencUnder P s = t →
    (CbcencAccepts P s → t.draws = s.draws + 1 ∧ t.entropy = s.entropy.tail) ∧
    (¬ CbcencAccepts P s → t.draws = s.draws ∧ t.entropy = s.entropy) ∧
    (t.errcode = .entropyError ↔ CbcencAccepts P s ∧ s.nextDraw = none)) ∧
  (∀ s : State, exec .cbcenc s = .next (cbcencUnder Config.params s)) ∧
  ∀ (i : Instr) (s t : State), i ≠ .cbcenc → exec i s = .next t →
    t.draws = s.draws ∧ t.entropy = s.entropy

/-- A command reads M only in its source ranges (20_memory.md R60): two states that differ in M outside
them end with the same registers, and with the same bytes where the command stores. -/
def Obligations.CommandsReadOnlyTheirRanges : Prop :=
  (∀ (i : Instr) (s t t' : State) (m' : Memory), s.mem.wf → m'.wf →
    (∀ r ∈ readRanges i s, ∀ a, InsideRange r a → m'.read a = s.mem.read a) →
    exec i s = .next t → exec i { s with mem := m' } = .next t' → t' = { t with mem := t'.mem }) ∧
  ∀ (P : Params) (s : State) (m' : Memory), s.mem.wf → m'.wf →
    (∀ a, InsideRange (s.srcAddr.toNat, s.srcLen.toNat) a → m'.read a = s.mem.read a) →
    ((cbcencUnder P s).errcode = .ok →
      ∀ a, InsideRange (storedRange .cbcenc s (cbcencUnder P s)) a →
        (cbcencUnder P { s with mem := m' }).mem.read a = (cbcencUnder P s).mem.read a) ∧
    ((cbcdecUnder P s).errcode = .ok →
      ∀ a, InsideRange (storedRange .cbcdec s (cbcdecUnder P s)) a →
        (cbcdecUnder P { s with mem := m' }).mem.read a = (cbcdecUnder P s).mem.read a)

/-! ## Steps of the machine -/

/-- A step on the core's turn runs the command that the pending word decodes to (R26, R91), and the
step after `withFetchWord` runs the word it was given. -/
def Obligations.StepRunsDecodedInstruction : Prop :=
  (∀ (s : State) (w : Word) (i : Instr) (rest : List Turn), s.CoreHasTurn rest → s.pend = some w →
    decode w = some i → step s = exec i (s.setInbox rest)) ∧
  ∀ (s : State) (w : Word) (i : Instr), decode w = some i →
    step (s.withFetchWord 32 w.toNat) = exec i (s.accept w)

/-- A step faults exactly when the host writes a byte inside a range the pending command uses (R298,
R270) or reads one inside the range it is to write (93_implementation_defined.md I10; log 6), and is
refused exactly when the host names bytes that are not in M (the model's choice, log 7); no command
ever stops. The range that a pending CBCDEC is to write is the model's choice (log 5). -/
def Obligations.OnlyHostAccessesStop : Prop :=
  (∀ (s : State) (f : Fault), step s = .fault f ↔
    f = .bufferHazard ∧ ∃ rest : List Turn,
      (∃ (a : Nat) (bs : Bytes), s.inbox = .host (.writeMem a bs) :: rest ∧
        InRange Config.params a bs.length ∧ ∃ r ∈ s.rangesInUse, Overlap a bs.length r.1 r.2) ∨
      (∃ a n : Nat, s.inbox = .host (.readMem a n) :: rest ∧
        InRange Config.params a n ∧ ∃ r ∈ s.rangesToWrite, Overlap a n r.1 r.2)) ∧
  (∀ (s : State) (r : Refusal), step s = .refused r ↔
    r = .hostOutsideM ∧ ∃ rest : List Turn,
      (∃ (a : Nat) (bs : Bytes), s.inbox = .host (.writeMem a bs) :: rest ∧
        ¬ InRange Config.params a bs.length) ∨
      (∃ a n : Nat, s.inbox = .host (.readMem a n) :: rest ∧ ¬ InRange Config.params a n)) ∧
  ∀ (i : Instr) (s : State), ∃ t, exec i s = .next t

/-- The invariant holds after reset, and no command is pending (R40). That M lists no byte there is the
model's choice (log 1). -/
def Obligations.InvariantAtReset : Prop := State.reset.Inv ∧ State.reset.pend = none

/-- Every step keeps the invariant, whoever takes it. -/
def Obligations.InvariantKeptByEveryStep : Prop :=
  ∀ s t : State, s.Inv → step s = .next t → t.Inv

/-- KEY changes only by a KDF that succeeds, a host write to KEY0..KEY3 while idle, or a reset (R31);
IV only by a CBCENC or CBCDEC that succeeds, or a reset (R32). -/
def Obligations.WritersOfKeyAndIv : Prop :=
  ∀ s t : State, step s = .next t →
    (t.key ≠ s.key →
       (∃ (w : Word) (rest : List Turn), s.CoreHasTurn rest ∧ s.pend = some w ∧ decode w = some .kdf ∧
         t.errcode = .ok) ∨
       (∃ (o : BitVec 8) (x : Word) (rest : List Turn), s.inbox = .host (.writeReg o 32 x) :: rest ∧
         ((0x40 ≤ o.toNat ∧ o.toNat ≤ 0x4C ∧ s.pend = none) ∨ (o = 0x04 ∧ x.getLsbD 1 = true))) ∨
       ∃ rest : List Turn, s.inbox = .hardReset :: rest) ∧
    (t.iv ≠ s.iv →
       (∃ (w : Word) (rest : List Turn), s.CoreHasTurn rest ∧ s.pend = some w ∧
         (decode w = some .cbcenc ∨ decode w = some .cbcdec) ∧ t.errcode = .ok) ∨
       (∃ (x : Word) (rest : List Turn), s.inbox = .host (.writeReg 0x04 32 x) :: rest ∧ x.getLsbD 1 = true) ∨
       ∃ rest : List Turn, s.inbox = .hardReset :: rest)

/-- A byte of M changes only when the host writes it outside every range in use, or in the DST range of
a CBCENC or CBCDEC that succeeds; a reset never changes one (20_memory.md R60, R76, R291). The range a
pending CBCDEC is to write, one of the ranges in use, is the model's choice (log 5). -/
def Obligations.WritersOfMemory : Prop :=
  ∀ (s t : State) (a : Nat), s.mem.wf → step s = .next t → t.mem.read a ≠ s.mem.read a →
    (∃ (b : Nat) (bs : Bytes) (rest : List Turn), s.inbox = .host (.writeMem b bs) :: rest ∧
      InsideRange (b, bs.length) a ∧ ∀ r ∈ s.rangesInUse, ¬ InsideRange r a) ∨
    ∃ (w : Word) (i : Instr) (rest : List Turn), s.CoreHasTurn rest ∧ s.pend = some w ∧ decode w = some i ∧
      (i = .cbcenc ∨ i = .cbcdec) ∧ t.errcode = .ok ∧ InsideRange (storedRange i s t) a

/-! ## Memory (20_memory.md) -/

/-- R61: `MemWrite(a, n, B)` makes `M[a+i] = B[i]`, leaves every other byte, `MemRead` gives the string
back, and the memory keeps its one form. -/
def Obligations.MemoryReadAfterWrite : Prop :=
  ∀ (m : Memory) (a : Nat) (bs : Bytes), m.wf →
    (m.writeBytes a bs).wf ∧ (m.writeBytes a bs).readBytes a bs.length = bs ∧
    ∀ x, x < a ∨ a + bs.length ≤ x → (m.writeBytes a bs).read x = m.read x

/-- Equal contents are equal memories: the one form of a memory is canonical (log 1). -/
def Obligations.MemoryFormIsCanonical : Prop :=
  ∀ m m' : Memory, m.wf → m'.wf → (∀ a, m.read a = m'.read a) → m = m'

/-! ## The register window (10_state.md) -/

/-- R28: a write of CMD is accepted while idle; it is ignored and sets IGN while busy; a read returns
the last accepted word. -/
def Obligations.CommandAcceptance : Prop :=
  ∀ (s : State) (w : Word) (ts : List Turn),
    (s.inbox = .host (.writeReg 0x10 32 w) :: ts → s.pend = none →
      step s = .next { s with
        inbox := ts, resp := .ack, cmd := w, pend := some w, done := false }) ∧
    (s.inbox = .host (.writeReg 0x10 32 w) :: ts → s.pend ≠ none →
      step s = .next { s with inbox := ts, resp := .ack, ign := true }) ∧
    (s.inbox = .host (.readReg 0x10 32) :: ts → step s = .next { s with inbox := ts, resp := .word s.cmd })

/-- R37: while BUSY = 1 writes to CMD, the operand registers, KEY and V0..V3 only set IGN; writes to
CTRL and STATUS take effect; a read returns what the register holds at that step. -/
def Obligations.WritesWhileBusy : Prop :=
  ∀ (s : State) (o : BitVec 8) (x : Word) (ts : List Turn), s.pend ≠ none → o.toNat % 4 = 0 →
    (s.inbox = .host (.writeReg o 32 x) :: ts →
      (o = 0x10 ∨ (0x18 ≤ o.toNat ∧ o.toNat ≤ 0x34) ∨ (0x40 ≤ o.toNat ∧ o.toNat ≤ 0x4C) ∨
        (0x60 ≤ o.toNat ∧ o.toNat ≤ 0x9C)) →
      step s = .next { s with inbox := ts, resp := .ack, ign := true }) ∧
    (s.inbox = .host (.writeReg o 32 x) :: ts → o = 0x04 → x.getLsbD 1 = false →
      step s = .next { s with inbox := ts, resp := .ack, ie := x.getLsbD 0 }) ∧
    (s.inbox = .host (.writeReg o 32 x) :: ts → o = 0x04 → x.getLsbD 1 = true →
      step s = .next { State.reset with
        mem := s.mem, entropy := s.entropy, draws := s.draws, inbox := ts, resp := .ack }) ∧
    (s.inbox = .host (.writeReg o 32 x) :: ts → o = 0x08 →
      step s = .next { s with
        inbox := ts, resp := .ack, done := s.done && !x.getLsbD 1, err := s.err && !x.getLsbD 2,
        ign := s.ign && !x.getLsbD 3 }) ∧
    (s.inbox = .host (.readReg o 32) :: ts →
      step s = .next { s with inbox := ts, resp := .word (s.readWin (winRegOf o)) })

/-- R24: a write to CTRL with bit 1 set is the soft reset and nothing else, else bit 0 becomes IE; CTRL
reads IE in bit 0 and 0 elsewhere. STATUS (10_state.md R25): its four bits as read, and
write-1-to-clear. -/
def Obligations.ControlAndStatusRegisters : Prop :=
  ∀ (s : State) (x : Word) (ts : List Turn),
    (s.inbox = .host (.writeReg 0x04 32 x) :: ts → x.getLsbD 1 = true →
      step s = .next { State.reset with
        mem := s.mem, entropy := s.entropy, draws := s.draws, inbox := ts, resp := .ack }) ∧
    (s.inbox = .host (.writeReg 0x04 32 x) :: ts → x.getLsbD 1 = false →
      step s = .next { s with inbox := ts, resp := .ack, ie := x.getLsbD 0 }) ∧
    (s.inbox = .host (.readReg 0x04 32) :: ts →
      ∃ y : Word, step s = .next { s with inbox := ts, resp := .word y } ∧
        ∀ k, y.getLsbD k = (decide (k = 0) && s.ie)) ∧
    (s.inbox = .host (.writeReg 0x08 32 x) :: ts →
      step s = .next { s with
        inbox := ts, resp := .ack, done := s.done && !x.getLsbD 1, err := s.err && !x.getLsbD 2,
        ign := s.ign && !x.getLsbD 3 }) ∧
    (s.inbox = .host (.readReg 0x08 32) :: ts →
      ∃ y : Word, step s = .next { s with inbox := ts, resp := .word y } ∧
        y.getLsbD 0 = s.pend.isSome ∧ y.getLsbD 1 = s.done ∧ y.getLsbD 2 = s.err ∧ y.getLsbD 3 = s.ign ∧
        ∀ k, 4 ≤ k → y.getLsbD k = false)

/-- R35: word w of a 16-byte register is its bytes 4w..4w+3, little-endian; writing a word sets those
four bytes, reads back, and changes no other byte. -/
def Obligations.LaneOrder : Prop :=
  ∀ (b : Block) (w : Fin 4) (x : Word),
    lane b w = (b[4 * w.val].setWidth 32 ||| (b[4 * w.val + 1].setWidth 32 <<< 8) |||
      (b[4 * w.val + 2].setWidth 32 <<< 16) ||| (b[4 * w.val + 3].setWidth 32 <<< 24)) ∧
    (∀ k : Fin 4, (setLane b w x)[4 * w.val + k.val] = x.extractLsb' (8 * k.val) 8) ∧
    (∀ i : Fin 16, i.val / 4 ≠ w.val → (setLane b w x)[i] = b[i]) ∧
    lane (setLane b w x) w = x ∧ ∀ u : Fin 4, u ≠ w → lane (setLane b w x) u = lane b u

/-- The whole window as read, offset by offset (10_state.md R22, R23, R36); a read changes nothing but
the answer to the host. -/
def Obligations.WindowReads : Prop :=
  ∀ (s : State) (o : BitVec 8) (ts : List Turn), s.inbox = .host (.readReg o 32) :: ts → o.toNat % 4 = 0 →
    ∃ x : Word, step s = .next { s with inbox := ts, resp := .word x } ∧
      (o = 0x00 → x = 0x01101003) ∧
      (o = 0x04 → ∀ k, x.getLsbD k = (decide (k = 0) && s.ie)) ∧
      (o = 0x08 → x.getLsbD 0 = s.pend.isSome ∧ x.getLsbD 1 = s.done ∧ x.getLsbD 2 = s.err ∧
        x.getLsbD 3 = s.ign ∧ ∀ k, 4 ≤ k → x.getLsbD k = false) ∧
      (o = 0x0C → x = BitVec.ofNat 32 s.errcode.toNat) ∧
      (o = 0x10 → x = s.cmd) ∧ (o = 0x14 → x = s.result) ∧
      (o = 0x18 → x = s.srcAddr) ∧ (o = 0x1C → x = s.srcLen) ∧
      (o = 0x20 → x = s.dstAddr) ∧ (o = 0x24 → x = s.dstCap) ∧
      (o = 0x28 → x = s.idaAddr) ∧ (o = 0x2C → x = s.idaLen) ∧
      (o = 0x30 → x = s.idbAddr) ∧ (o = 0x34 → x = s.idbLen) ∧
      (∀ w : Fin 4, o.toNat = 0x40 + 4 * w.val → x = lane s.key w) ∧
      (∀ w : Fin 4, o.toNat = 0x50 + 4 * w.val → x = lane s.iv w) ∧
      (∀ (n : VReg) (w : Fin 4), o.toNat = 0x60 + 16 * n.val + 4 * w.val → x = lane s.v[n] w) ∧
      (o = 0x38 ∨ o = 0x3C ∨ 0xA0 ≤ o.toNat → x = 0)

/-- The whole window as written while idle, offset by offset (10_state.md R22, R24, R25, R28, R31,
R33-R35); the offsets that R22 makes read-only or reserved are in `ReservedAndReadOnly`. -/
def Obligations.WindowWritesWhileIdle : Prop :=
  ∀ (s : State) (o : BitVec 8) (x : Word) (ts : List Turn), s.inbox = .host (.writeReg o 32 x) :: ts →
    s.pend = none →
    (o = 0x04 → x.getLsbD 1 = false → step s = .next { s with inbox := ts, resp := .ack, ie := x.getLsbD 0 }) ∧
    (o = 0x04 → x.getLsbD 1 = true → step s = .next { State.reset with
      mem := s.mem, entropy := s.entropy, draws := s.draws, inbox := ts, resp := .ack }) ∧
    (o = 0x08 → step s = .next { s with
      inbox := ts, resp := .ack, done := s.done && !x.getLsbD 1, err := s.err && !x.getLsbD 2,
      ign := s.ign && !x.getLsbD 3 }) ∧
    (o = 0x10 → step s = .next { s with
      inbox := ts, resp := .ack, cmd := x, pend := some x, done := false }) ∧
    (o = 0x18 → step s = .next { s with inbox := ts, resp := .ack, srcAddr := x }) ∧
    (o = 0x1C → step s = .next { s with inbox := ts, resp := .ack, srcLen := x }) ∧
    (o = 0x20 → step s = .next { s with inbox := ts, resp := .ack, dstAddr := x }) ∧
    (o = 0x24 → step s = .next { s with inbox := ts, resp := .ack, dstCap := x }) ∧
    (o = 0x28 → step s = .next { s with inbox := ts, resp := .ack, idaAddr := x }) ∧
    (o = 0x2C → step s = .next { s with inbox := ts, resp := .ack, idaLen := x }) ∧
    (o = 0x30 → step s = .next { s with inbox := ts, resp := .ack, idbAddr := x }) ∧
    (o = 0x34 → step s = .next { s with inbox := ts, resp := .ack, idbLen := x }) ∧
    (∀ w : Fin 4, o.toNat = 0x40 + 4 * w.val →
      step s = .next { s with inbox := ts, resp := .ack, key := setLane s.key w x }) ∧
    (∀ (n : VReg) (w : Fin 4), o.toNat = 0x60 + 16 * n.val + 4 * w.val →
      step s = .next { s with inbox := ts, resp := .ack, v := s.v.set n (setLane s.v[n] w x) })

/-- R36: reserved offsets read 0 and ignore writes; writes to ID, ERRCODE, RESULT and IV0..IV3 are
ignored and set nothing, busy or not; reserved bits read 0, and a write takes effect as if they were 0. -/
def Obligations.ReservedAndReadOnly : Prop :=
  ∀ (s : State) (o : BitVec 8) (x y : Word) (ts : List Turn), o.toNat % 4 = 0 →
    (s.inbox = .host (.writeReg o 32 x) :: ts →
      (o = 0x00 ∨ o = 0x0C ∨ o = 0x14 ∨ (0x50 ≤ o.toNat ∧ o.toNat ≤ 0x5C) ∨ o = 0x38 ∨ o = 0x3C ∨
        0xA0 ≤ o.toNat) → step s = .next { s with inbox := ts, resp := .ack }) ∧
    (s.inbox = .host (.readReg o 32) :: ts → (o = 0x38 ∨ o = 0x3C ∨ 0xA0 ≤ o.toNat) →
      step s = .next { s with inbox := ts, resp := .word 0 }) ∧
    (x &&& 0x3 = y &&& 0x3 → step (s.setInbox (.host (.writeReg 0x04 32 x) :: ts)) =
      step (s.setInbox (.host (.writeReg 0x04 32 y) :: ts))) ∧
    (x &&& 0xE = y &&& 0xE → step (s.setInbox (.host (.writeReg 0x08 32 x) :: ts)) =
      step (s.setInbox (.host (.writeReg 0x08 32 y) :: ts))) ∧
    s.ctrlWord &&& 0xFFFFFFFE = 0 ∧ s.statusWord &&& 0xFFFFFFF0 = 0 ∧ s.errcodeWord &&& 0xFFFFFFF0 = 0

/-- R64: an access of another width, or at an offset that is no multiple of 4, gets a bus error: a
write changes no state, a read returns 0. -/
def Obligations.BusErrorAccesses : Prop :=
  ∀ (s : State) (o : BitVec 8) (n : Nat) (x : Word) (ts : List Turn),
    (n ≠ 32 ∨ o.toNat % 4 ≠ 0 → s.inbox = .host (.writeReg o n x) :: ts →
      step s = .next { s with inbox := ts, resp := .busError none }) ∧
    (n ≠ 32 ∨ o.toNat % 4 ≠ 0 → s.inbox = .host (.readReg o n) :: ts →
      step s = .next { s with inbox := ts, resp := .busError (some 0) }) ∧
    (n = 32 → o.toNat % 4 = 0 → s.inbox = .host (.readReg o n) :: ts →
      ∃ y : Word, step s = .next { s with inbox := ts, resp := .word y }) ∧
    (n = 32 → o.toNat % 4 = 0 → s.inbox = .host (.writeReg o n x) :: ts →
      ∃ t, step s = .next t ∧ t.resp = .ack)

/-- R40, R290, R291: both resets give every register its reset value, discard a pending command and
keep M (with the entropy source and the turns to come). -/
def Obligations.ResetValues : Prop :=
  ∀ (s : State) (ts : List Turn) (x : Word),
    (s.inbox = .hardReset :: ts ∨ (s.inbox = .host (.writeReg 0x04 32 x) :: ts ∧ x.getLsbD 1 = true)) →
    ∃ t, step s = .next t ∧
      t.ie = false ∧ t.busy = false ∧ t.done = false ∧ t.err = false ∧ t.ign = false ∧
      t.ctrlWord = 0 ∧ t.statusWord = 0 ∧ t.errcodeWord = 0 ∧ t.errcode = .ok ∧
      t.cmd = 0 ∧ t.pend = none ∧ t.result = 0 ∧
      t.srcAddr = 0 ∧ t.srcLen = 0 ∧ t.dstAddr = 0 ∧ t.dstCap = 0 ∧
      t.idaAddr = 0 ∧ t.idaLen = 0 ∧ t.idbAddr = 0 ∧ t.idbLen = 0 ∧
      (∀ i : Fin 16, t.key[i] = 0 ∧ t.iv[i] = 0 ∧ ∀ n : VReg, t.v[n][i] = 0) ∧
      t.irq = false ∧ t.readWin .id = 0x01101003 ∧ t.mem = s.mem ∧ t.entropy = s.entropy ∧
      t.draws = s.draws ∧ t.inbox = ts

/-- R38: IRQ is CTRL.IE and STATUS.DONE; with R28, R266 and R25 it rises with a completion when IE = 1
and falls with an acceptance or a write of 1 to DONE. -/
def Obligations.InterruptLine : Prop :=
  (∀ s : State, s.irq = true ↔ s.ie = true ∧ s.done = true) ∧
  (∀ (s t : State) (w : Word) (rest : List Turn), s.CoreHasTurn rest → s.pend = some w → step s = .next t →
    t.irq = s.ie) ∧
  (∀ (s t : State) (w : Word) (ts : List Turn), s.inbox = .host (.writeReg 0x10 32 w) :: ts → s.pend = none →
    step s = .next t → t.irq = false) ∧
  ∀ (s t : State) (x : Word) (ts : List Turn), s.inbox = .host (.writeReg 0x08 32 x) :: ts →
    x.getLsbD 1 = true → step s = .next t → t.irq = false

/-- 70_reset_and_hazards.md R298, 93_implementation_defined.md I10 and 92_eei_decisions.md D27: while a
command is pending, a host write of M that meets its SRC range, its identifiers or its DST range faults
and any other is done; a host read that meets its DST range faults and any other is answered. The DST
range of a pending CBCDEC is the longest plaintext it can store (log 5); that the read faults is log 6. -/
def Obligations.BufferHazard : Prop :=
  ∀ (s : State) (w : Word) (i : Instr) (a : Nat) (ts : List Turn), s.pend = some w → decode w = some i →
    (∀ bs : Bytes, s.inbox = .host (.writeMem a bs) :: ts → InRange Config.params a bs.length →
      (i = .kdf → Overlap a bs.length s.idaAddr.toNat s.idaLen.toNat ∨
          Overlap a bs.length s.idbAddr.toNat s.idbLen.toNat → step s = .fault .bufferHazard) ∧
      (i = .cbcenc → Overlap a bs.length s.srcAddr.toNat s.srcLen.toNat ∨
          Overlap a bs.length s.dstAddr.toNat (16 * (s.srcLen.toNat / 16 + 2)) →
        step s = .fault .bufferHazard) ∧
      (i = .cbcdec → Overlap a bs.length s.srcAddr.toNat s.srcLen.toNat ∨
          Overlap a bs.length s.dstAddr.toNat (min s.dstCap.toNat (s.srcLen.toNat - 17)) →
        step s = .fault .bufferHazard) ∧
      ((∀ r ∈ usedRanges i s, ¬ Overlap a bs.length r.1 r.2) →
        step s = .next { s with inbox := ts, resp := .ack, mem := s.mem.writeBytes a bs })) ∧
    (∀ n : Nat, s.inbox = .host (.readMem a n) :: ts → InRange Config.params a n →
      (i = .cbcenc → Overlap a n s.dstAddr.toNat (16 * (s.srcLen.toNat / 16 + 2)) →
        step s = .fault .bufferHazard) ∧
      (i = .cbcdec → Overlap a n s.dstAddr.toNat (min s.dstCap.toNat (s.srcLen.toNat - 17)) →
        step s = .fault .bufferHazard) ∧
      ((∀ r ∈ writeRanges i s, ¬ Overlap a n r.1 r.2) →
        step s = .next { s with inbox := ts, resp := .bytes (s.mem.readBytes a n) })) ∧
    (i ≠ .cbcenc → i ≠ .cbcdec → writeRanges i s = []) ∧
    (i ≠ .kdf → i ≠ .cbcenc → i ≠ .cbcdec → usedRanges i s = [])

/-- While idle, and while an illegal word is pending, a host write of bytes of M stores them and a host
read answers them as they stand, each changing nothing else (20_memory.md R60, R68, R71). That a run of
bytes is one access is the model's choice (log 11). -/
def Obligations.HostMemoryAccessWithNothingInUse : Prop :=
  ∀ (s : State) (a : Nat) (ts : List Turn), (∀ w, s.pend = some w → decode w = none) →
    (∀ bs : Bytes, s.inbox = .host (.writeMem a bs) :: ts → InRange Config.params a bs.length →
      step s = .next { s with inbox := ts, resp := .ack, mem := s.mem.writeBytes a bs }) ∧
    ∀ n : Nat, s.inbox = .host (.readMem a n) :: ts → InRange Config.params a n →
      step s = .next { s with inbox := ts, resp := .bytes (s.mem.readBytes a n) }
end

