-- ==== Sys2Proof/Laws/Block.lean ====
section
/-! SUPPORT. Byte `i` of every function on blocks, and the lengths of the byte strings built from them. -/

namespace Sys2Proof.Machine

variable {i : Nat} (h : i < 16)

@[simp] theorem zeroBlock_get : zeroBlock[i] = 0 := by simp [zeroBlock]

@[simp] theorem xorBlock_get (a b : Block) : (xorBlock a b)[i] = a[i] ^^^ b[i] := by simp [xorBlock]

@[simp] theorem blockOf_get (bs : Bytes) : (blockOf bs)[i] = bs.getD i 0 := by simp [blockOf]

@[simp] theorem first16_get (d : Digest) : (first16 d)[i] = d[i] := by simp [first16]

@[simp] theorem subBlock_get (P : Params) (b : Block) : (subBlock P b)[i] = P.sbox b[i] := by
  simp [subBlock]

@[simp] theorem invSubBlock_get (P : Params) (b : Block) : (invSubBlock P b)[i] = P.invSbox b[i] := by
  simp [invSubBlock]

theorem rotBlock_get (b : Block) :
    (rotBlock b)[i] = b[4 * (i / 4) + (i % 4 + i / 4) % 4] := by simp [rotBlock]

theorem invRotBlock_get (b : Block) :
    (invRotBlock b)[i] = b[4 * (i / 4) + (i % 4 + 4 - i / 4) % 4] := by simp [invRotBlock]

theorem mulColumns_get (m : Fin 4 → Fin 4 → Byte) (b : Block) :
    (mulColumns m b)[i] = gfDot (m ⟨i / 4, by omega⟩) (columnOf b ⟨i % 4, by omega⟩) := by
  simp [mulColumns]

theorem setLane_get (b : Block) (w : Fin 4) (x : Word) :
    (setLane b w x)[i] = if i / 4 = w.val then x.extractLsb' (8 * (i % 4)) 8 else b[i] := by
  simp [setLane]

theorem xorBlock_comm (a b : Block) : xorBlock a b = xorBlock b a := by
  ext i hi; simp [BitVec.xor_comm]

theorem xorBlock_assoc (a b c : Block) : xorBlock (xorBlock a b) c = xorBlock a (xorBlock b c) := by
  ext i hi; simp [BitVec.xor_assoc]

@[simp] theorem xorBlock_self (a : Block) : xorBlock a a = zeroBlock := by
  ext i hi; simp

@[simp] theorem xorBlock_zero (a : Block) : xorBlock a zeroBlock = a := by
  ext i hi; simp

/-- XOR with the same block twice restores the block. -/
theorem xorBlock_cancel (a b : Block) : xorBlock (xorBlock a b) b = a := by
  rw [xorBlock_assoc, xorBlock_self, xorBlock_zero]

/-- The bytes of a block give the block back (R220). -/
@[simp] theorem blockOf_toList (b : Block) : blockOf b.toList = b := by
  ext i hi; simp [hi]

@[simp] theorem takeBlocks_length (n : Nat) (x : Bytes) : (takeBlocks n x).length = n := by
  induction n generalizing x with
  | zero => rfl
  | succ n ih => simp [takeBlocks, ih]

@[simp] theorem bytesOf_nil : bytesOf [] = [] := rfl

@[simp] theorem bytesOf_cons (b : Block) (bs : List Block) : bytesOf (b :: bs) = b.toList ++ bytesOf bs := rfl

@[simp] theorem bytesOf_length (bs : List Block) : (bytesOf bs).length = 16 * bs.length := by
  induction bs with
  | nil => rfl
  | cons b bs ih => simp [ih]; omega

@[simp] theorem chainBlocks_length (P : Params) (key prev : Block) (bs : List Block) :
    (chainBlocks P key prev bs).length = bs.length := by
  induction bs generalizing prev with
  | nil => rfl
  | cons b bs ih => simp [chainBlocks, ih]

@[simp] theorem unchainBlocks_length (P : Params) (key prev : Block) (bs : List Block) :
    (unchainBlocks P key prev bs).length = bs.length := by
  induction bs generalizing prev with
  | nil => rfl
  | cons b bs ih => simp [unchainBlocks, ih]

/-- `len(Pad(M)) = 16 * (len(M) div 16 + 1)` (R221). -/
theorem pad_length (m : Bytes) : (pad m).length = 16 * (m.length / 16 + 1) := by
  simp [pad, padCount]; omega

/-- The length of an envelope (R223, R225). -/
theorem cbcEncrypt_length (P : Params) (m : Bytes) (key iv : Block) :
    (cbcEncrypt P m key iv).length = envelopeLength m.length := by
  simp [cbcEncrypt, blocksOf, pad_length, envelopeLength]; omega

/-- What `unpad` takes off leaves at least 16 bytes fewer than nothing: 1 to 16 bytes (R222). -/
theorem unpad_length {p m : Bytes} (h : unpad p = some m) :
    m.length + 1 ≤ p.length ∧ p.length ≤ m.length + 16 := by
  unfold unpad at h
  simp only at h
  split at h
  · cases h
  · cases h
    rw [List.length_take]
    omega

/-- The recovered padded plaintext is one block shorter than the envelope (R224). -/
theorem cbcRecover_length (P : Params) (x : Bytes) (key : Block) :
    (cbcRecover P x key).length = 16 * (x.length / 16 - 1) := by
  have hl : (blocksOf x).length = x.length / 16 := takeBlocks_length _ _
  unfold cbcRecover
  split
  · next h => rw [h] at hl; simp at hl ⊢; omega
  · next c0 cs h => rw [h] at hl; simp at hl ⊢; omega

end Sys2Proof.Machine
end

