-- ==== Sys2Proof/Laws/Memory.lean ====
section
/-! SUPPORT. M as a map (20_memory.md R61): a byte written is read back, every other byte stays, and
every write keeps the one form `Memory.wf`. -/

namespace Sys2Proof.Machine

theorem Memory.wf_nil : Memory.wf [] := by simp [Memory.wf]

theorem Memory.wf_tail {c : Host.Cell} {m : Memory} (h : Memory.wf (c :: m)) : Memory.wf m :=
  ⟨(List.pairwise_cons.1 h.1).2, fun d hd => h.2 d (List.mem_cons_of_mem c hd)⟩

theorem Memory.wf_above {c : Host.Cell} {m : Memory} (h : Memory.wf (c :: m)) : ∀ d ∈ m, c.1 < d.1 :=
  (List.pairwise_cons.1 h.1).1

/-- An address below every entry reads as the unlisted byte. -/
theorem Memory.read_below {m : Memory} {a : Nat} (h : ∀ d ∈ m, a < d.1) :
    m.read a = Memory.unlistedByte := by
  induction m with
  | nil => rfl
  | cons c m ih =>
    have hc := h c (by simp)
    rw [Memory.read, if_neg (by omega)]
    exact ih fun d hd => h d (List.mem_cons_of_mem c hd)

/-- What `Memory.cons` puts before a tail. -/
theorem Memory.mem_cons {a : Nat} {b : Byte} {m : Memory} {d : Host.Cell} (h : d ∈ Memory.cons a b m) :
    d = (a, b) ∨ d ∈ m := by
  unfold Memory.cons at h
  split at h
  · exact .inr h
  · simpa using h

theorem Memory.cons_wf {a : Nat} {b : Byte} {m : Memory} (hm : m.wf) (ha : ∀ d ∈ m, a < d.1) :
    (Memory.cons a b m).wf := by
  unfold Memory.cons
  split
  · exact hm
  · rename_i hb
    refine ⟨List.pairwise_cons.2 ⟨ha, hm.1⟩, fun c hc => ?_⟩
    rcases List.mem_cons.1 hc with rfl | hc
    · exact hb
    · exact hm.2 c hc

theorem Memory.read_cons {a x : Nat} {b : Byte} {m : Memory} (ha : ∀ d ∈ m, a < d.1) :
    (Memory.cons a b m).read x = if x = a then b else m.read x := by
  unfold Memory.cons
  split
  · rename_i hb
    split
    · next hx => rw [hx, Memory.read_below ha, hb]
    · rfl
  · rw [Memory.read]
    by_cases hx : x = a
    · simp [hx]
    · rw [if_neg fun h => hx h.symm, if_neg hx]

/-- Where the entries of a written memory come from. -/
theorem Memory.mem_write {m : Memory} {a : Nat} {b : Byte} {d : Host.Cell} (h : d ∈ m.write a b) :
    d = (a, b) ∨ d ∈ m := by
  induction m with
  | nil => simpa using Memory.mem_cons h
  | cons c m ih =>
    obtain ⟨k, x⟩ := c
    rw [Memory.write] at h
    split at h
    · rcases List.mem_cons.1 h with rfl | h
      · simp
      · rcases ih h with h | h
        · exact .inl h
        · exact .inr (List.mem_cons_of_mem _ h)
    · split at h
      · rcases Memory.mem_cons h with h | h
        · exact .inl h
        · exact .inr (List.mem_cons_of_mem _ h)
      · exact Memory.mem_cons h

/-- A write of one byte keeps the form. -/
theorem Memory.write_wf {m : Memory} {a : Nat} {b : Byte} (h : m.wf) : (m.write a b).wf := by
  induction m with
  | nil => exact Memory.cons_wf Memory.wf_nil (by simp)
  | cons c m ih =>
    obtain ⟨k, x⟩ := c
    have ht := Memory.wf_tail h
    have hab := Memory.wf_above h
    rw [Memory.write]
    split
    · refine ⟨List.pairwise_cons.2 ⟨fun d hd => ?_, (ih ht).1⟩, fun d hd => ?_⟩
      · rcases Memory.mem_write hd with rfl | hd
        · assumption
        · exact hab d hd
      · rcases List.mem_cons.1 hd with rfl | hd
        · exact h.2 _ (by simp)
        · exact (ih ht).2 d hd
    · split
      · next hk => exact Memory.cons_wf ht fun d hd => hk ▸ hab d hd
      · refine Memory.cons_wf h fun d hd => ?_
        rcases List.mem_cons.1 hd with rfl | hd
        · simp only; omega
        · have := hab d hd
          simp only at this
          omega

/-- Reading after a write of one byte. -/
theorem Memory.read_write {m : Memory} {a x : Nat} {b : Byte} (h : m.wf) :
    (m.write a b).read x = if x = a then b else m.read x := by
  induction m with
  | nil => exact Memory.read_cons (by simp)
  | cons c m ih =>
    obtain ⟨k, y⟩ := c
    have ht := Memory.wf_tail h
    have hab := Memory.wf_above h
    rw [Memory.write]
    split
    · next hk =>
      rw [Memory.read, ih ht, Memory.read]
      by_cases hkx : k = x
      · rw [if_pos hkx, if_pos hkx, if_neg (by omega)]
      · rw [if_neg hkx, if_neg hkx]
    · split
      · next hk =>
        rw [Memory.read_cons fun d hd => hk ▸ hab d hd, Memory.read]
        by_cases hx : x = a
        · rw [if_pos hx, if_pos hx]
        · rw [if_neg hx, if_neg hx, if_neg (by omega)]
      · refine Memory.read_cons fun d hd => ?_
        rcases List.mem_cons.1 hd with rfl | hd
        · simp only; omega
        · have := hab d hd
          simp only at this
          omega

/-- A write of a byte string keeps the form. -/
theorem Memory.writeBytes_wf {m : Memory} {a : Nat} {bs : Bytes} (h : m.wf) : (m.writeBytes a bs).wf := by
  induction bs generalizing m a with
  | nil => exact h
  | cons b bs ih => exact ih (Memory.write_wf h)

/-- Where the entries of a memory come from after a write of a byte string. -/
theorem Memory.mem_writeBytes {m : Memory} {a : Nat} {bs : Bytes} {d : Host.Cell}
    (h : d ∈ m.writeBytes a bs) : d ∈ m ∨ (a ≤ d.1 ∧ d.1 < a + bs.length) := by
  induction bs generalizing m a with
  | nil => exact .inl h
  | cons b bs ih =>
    rcases ih h with h | h
    · rcases Memory.mem_write h with rfl | h
      · right; simp
      · exact .inl h
    · right; simp only [List.length_cons]; omega

/-- Reading after a write of a byte string: the string's byte inside the range, the old byte outside. -/
theorem Memory.read_writeBytes {m : Memory} {a x : Nat} {bs : Bytes} (h : m.wf) :
    (m.writeBytes a bs).read x =
      if a ≤ x ∧ x < a + bs.length then bs.getD (x - a) 0 else m.read x := by
  induction bs generalizing m a with
  | nil => rw [if_neg (by simp)]; rfl
  | cons b bs ih =>
    rw [Memory.writeBytes, ih (Memory.write_wf h), Memory.read_write h]
    by_cases hx : x = a
    · subst hx
      rw [if_neg (by omega), if_pos rfl, if_pos (by simp)]
      simp
    · by_cases hin : a + 1 ≤ x ∧ x < a + 1 + bs.length
      · rw [if_pos hin, if_pos (by simp only [List.length_cons]; omega)]
        obtain ⟨k, rfl⟩ : ∃ k, x = a + 1 + k := ⟨x - (a + 1), by omega⟩
        simp [show a + 1 + k - a = k + 1 by omega, show a + 1 + k - (a + 1) = k by omega]
      · rw [if_neg hin, if_neg hx, if_neg (by simp only [List.length_cons]; omega)]

@[simp] theorem Memory.readBytes_length (m : Memory) (a n : Nat) : (m.readBytes a n).length = n := by
  induction n generalizing a with
  | zero => rfl
  | succ n ih => simp [Memory.readBytes, ih]

/-- Byte `i` of a string read from M is M's byte at `a + i` (R61, R65). -/
theorem Memory.readBytes_getD {m : Memory} {a n i : Nat} {d : Byte} (h : i < n) :
    (m.readBytes a n).getD i d = m.read (a + i) := by
  induction n generalizing a i with
  | zero => omega
  | succ n ih =>
    cases i with
    | zero => simp [Memory.readBytes]
    | succ i =>
      rw [Memory.readBytes, List.getD_cons_succ, ih (by omega)]
      congr 1; omega

/-- Two memories that agree on a range give the same string. -/
theorem Memory.readBytes_congr {m m' : Memory} {a n : Nat}
    (h : ∀ x, a ≤ x → x < a + n → m.read x = m'.read x) : m.readBytes a n = m'.readBytes a n := by
  induction n generalizing a with
  | zero => rfl
  | succ n ih =>
    rw [Memory.readBytes, Memory.readBytes, h a (by omega) (by omega),
      ih fun x h1 h2 => h x (by omega) (by omega)]

end Sys2Proof.Machine
end

