-- ==== Sys2Proof/Laws/State.lean ====
section
/-! SUPPORT. What each named update of State leaves in each field: one lemma per field per update. -/

namespace Sys2Proof.Machine

variable (s : State)

@[simp] theorem State.setV_ie (n : VReg) (b : Block) : (s.setV n b).ie = s.ie := rfl
@[simp] theorem State.setV_done (n : VReg) (b : Block) : (s.setV n b).done = s.done := rfl
@[simp] theorem State.setV_err (n : VReg) (b : Block) : (s.setV n b).err = s.err := rfl
@[simp] theorem State.setV_ign (n : VReg) (b : Block) : (s.setV n b).ign = s.ign := rfl
@[simp] theorem State.setV_errcode (n : VReg) (b : Block) : (s.setV n b).errcode = s.errcode := rfl
@[simp] theorem State.setV_cmd (n : VReg) (b : Block) : (s.setV n b).cmd = s.cmd := rfl
@[simp] theorem State.setV_pend (n : VReg) (b : Block) : (s.setV n b).pend = s.pend := rfl
@[simp] theorem State.setV_result (n : VReg) (b : Block) : (s.setV n b).result = s.result := rfl
@[simp] theorem State.setV_srcAddr (n : VReg) (b : Block) : (s.setV n b).srcAddr = s.srcAddr := rfl
@[simp] theorem State.setV_srcLen (n : VReg) (b : Block) : (s.setV n b).srcLen = s.srcLen := rfl
@[simp] theorem State.setV_dstAddr (n : VReg) (b : Block) : (s.setV n b).dstAddr = s.dstAddr := rfl
@[simp] theorem State.setV_dstCap (n : VReg) (b : Block) : (s.setV n b).dstCap = s.dstCap := rfl
@[simp] theorem State.setV_idaAddr (n : VReg) (b : Block) : (s.setV n b).idaAddr = s.idaAddr := rfl
@[simp] theorem State.setV_idaLen (n : VReg) (b : Block) : (s.setV n b).idaLen = s.idaLen := rfl
@[simp] theorem State.setV_idbAddr (n : VReg) (b : Block) : (s.setV n b).idbAddr = s.idbAddr := rfl
@[simp] theorem State.setV_idbLen (n : VReg) (b : Block) : (s.setV n b).idbLen = s.idbLen := rfl
@[simp] theorem State.setV_key (n : VReg) (b : Block) : (s.setV n b).key = s.key := rfl
@[simp] theorem State.setV_iv (n : VReg) (b : Block) : (s.setV n b).iv = s.iv := rfl
@[simp] theorem State.setV_v (n : VReg) (b : Block) : (s.setV n b).v = s.v.set n b := rfl
@[simp] theorem State.setV_mem (n : VReg) (b : Block) : (s.setV n b).mem = s.mem := rfl
@[simp] theorem State.setV_entropy (n : VReg) (b : Block) : (s.setV n b).entropy = s.entropy := rfl
@[simp] theorem State.setV_draws (n : VReg) (b : Block) : (s.setV n b).draws = s.draws := rfl
@[simp] theorem State.setV_inbox (n : VReg) (b : Block) : (s.setV n b).inbox = s.inbox := rfl
@[simp] theorem State.setV_resp (n : VReg) (b : Block) : (s.setV n b).resp = s.resp := rfl

@[simp] theorem State.setResult_ie (x : Word) : (s.setResult x).ie = s.ie := rfl
@[simp] theorem State.setResult_done (x : Word) : (s.setResult x).done = s.done := rfl
@[simp] theorem State.setResult_err (x : Word) : (s.setResult x).err = s.err := rfl
@[simp] theorem State.setResult_ign (x : Word) : (s.setResult x).ign = s.ign := rfl
@[simp] theorem State.setResult_errcode (x : Word) : (s.setResult x).errcode = s.errcode := rfl
@[simp] theorem State.setResult_cmd (x : Word) : (s.setResult x).cmd = s.cmd := rfl
@[simp] theorem State.setResult_pend (x : Word) : (s.setResult x).pend = s.pend := rfl
@[simp] theorem State.setResult_result (x : Word) : (s.setResult x).result = x := rfl
@[simp] theorem State.setResult_srcAddr (x : Word) : (s.setResult x).srcAddr = s.srcAddr := rfl
@[simp] theorem State.setResult_srcLen (x : Word) : (s.setResult x).srcLen = s.srcLen := rfl
@[simp] theorem State.setResult_dstAddr (x : Word) : (s.setResult x).dstAddr = s.dstAddr := rfl
@[simp] theorem State.setResult_dstCap (x : Word) : (s.setResult x).dstCap = s.dstCap := rfl
@[simp] theorem State.setResult_idaAddr (x : Word) : (s.setResult x).idaAddr = s.idaAddr := rfl
@[simp] theorem State.setResult_idaLen (x : Word) : (s.setResult x).idaLen = s.idaLen := rfl
@[simp] theorem State.setResult_idbAddr (x : Word) : (s.setResult x).idbAddr = s.idbAddr := rfl
@[simp] theorem State.setResult_idbLen (x : Word) : (s.setResult x).idbLen = s.idbLen := rfl
@[simp] theorem State.setResult_key (x : Word) : (s.setResult x).key = s.key := rfl
@[simp] theorem State.setResult_iv (x : Word) : (s.setResult x).iv = s.iv := rfl
@[simp] theorem State.setResult_v (x : Word) : (s.setResult x).v = s.v := rfl
@[simp] theorem State.setResult_mem (x : Word) : (s.setResult x).mem = s.mem := rfl
@[simp] theorem State.setResult_entropy (x : Word) : (s.setResult x).entropy = s.entropy := rfl
@[simp] theorem State.setResult_draws (x : Word) : (s.setResult x).draws = s.draws := rfl
@[simp] theorem State.setResult_inbox (x : Word) : (s.setResult x).inbox = s.inbox := rfl
@[simp] theorem State.setResult_resp (x : Word) : (s.setResult x).resp = s.resp := rfl

@[simp] theorem State.setKey_ie (b : Block) : (s.setKey b).ie = s.ie := rfl
@[simp] theorem State.setKey_done (b : Block) : (s.setKey b).done = s.done := rfl
@[simp] theorem State.setKey_err (b : Block) : (s.setKey b).err = s.err := rfl
@[simp] theorem State.setKey_ign (b : Block) : (s.setKey b).ign = s.ign := rfl
@[simp] theorem State.setKey_errcode (b : Block) : (s.setKey b).errcode = s.errcode := rfl
@[simp] theorem State.setKey_cmd (b : Block) : (s.setKey b).cmd = s.cmd := rfl
@[simp] theorem State.setKey_pend (b : Block) : (s.setKey b).pend = s.pend := rfl
@[simp] theorem State.setKey_result (b : Block) : (s.setKey b).result = s.result := rfl
@[simp] theorem State.setKey_srcAddr (b : Block) : (s.setKey b).srcAddr = s.srcAddr := rfl
@[simp] theorem State.setKey_srcLen (b : Block) : (s.setKey b).srcLen = s.srcLen := rfl
@[simp] theorem State.setKey_dstAddr (b : Block) : (s.setKey b).dstAddr = s.dstAddr := rfl
@[simp] theorem State.setKey_dstCap (b : Block) : (s.setKey b).dstCap = s.dstCap := rfl
@[simp] theorem State.setKey_idaAddr (b : Block) : (s.setKey b).idaAddr = s.idaAddr := rfl
@[simp] theorem State.setKey_idaLen (b : Block) : (s.setKey b).idaLen = s.idaLen := rfl
@[simp] theorem State.setKey_idbAddr (b : Block) : (s.setKey b).idbAddr = s.idbAddr := rfl
@[simp] theorem State.setKey_idbLen (b : Block) : (s.setKey b).idbLen = s.idbLen := rfl
@[simp] theorem State.setKey_key (b : Block) : (s.setKey b).key = b := rfl
@[simp] theorem State.setKey_iv (b : Block) : (s.setKey b).iv = s.iv := rfl
@[simp] theorem State.setKey_v (b : Block) : (s.setKey b).v = s.v := rfl
@[simp] theorem State.setKey_mem (b : Block) : (s.setKey b).mem = s.mem := rfl
@[simp] theorem State.setKey_entropy (b : Block) : (s.setKey b).entropy = s.entropy := rfl
@[simp] theorem State.setKey_draws (b : Block) : (s.setKey b).draws = s.draws := rfl
@[simp] theorem State.setKey_inbox (b : Block) : (s.setKey b).inbox = s.inbox := rfl
@[simp] theorem State.setKey_resp (b : Block) : (s.setKey b).resp = s.resp := rfl

@[simp] theorem State.setIv_ie (b : Block) : (s.setIv b).ie = s.ie := rfl
@[simp] theorem State.setIv_done (b : Block) : (s.setIv b).done = s.done := rfl
@[simp] theorem State.setIv_err (b : Block) : (s.setIv b).err = s.err := rfl
@[simp] theorem State.setIv_ign (b : Block) : (s.setIv b).ign = s.ign := rfl
@[simp] theorem State.setIv_errcode (b : Block) : (s.setIv b).errcode = s.errcode := rfl
@[simp] theorem State.setIv_cmd (b : Block) : (s.setIv b).cmd = s.cmd := rfl
@[simp] theorem State.setIv_pend (b : Block) : (s.setIv b).pend = s.pend := rfl
@[simp] theorem State.setIv_result (b : Block) : (s.setIv b).result = s.result := rfl
@[simp] theorem State.setIv_srcAddr (b : Block) : (s.setIv b).srcAddr = s.srcAddr := rfl
@[simp] theorem State.setIv_srcLen (b : Block) : (s.setIv b).srcLen = s.srcLen := rfl
@[simp] theorem State.setIv_dstAddr (b : Block) : (s.setIv b).dstAddr = s.dstAddr := rfl
@[simp] theorem State.setIv_dstCap (b : Block) : (s.setIv b).dstCap = s.dstCap := rfl
@[simp] theorem State.setIv_idaAddr (b : Block) : (s.setIv b).idaAddr = s.idaAddr := rfl
@[simp] theorem State.setIv_idaLen (b : Block) : (s.setIv b).idaLen = s.idaLen := rfl
@[simp] theorem State.setIv_idbAddr (b : Block) : (s.setIv b).idbAddr = s.idbAddr := rfl
@[simp] theorem State.setIv_idbLen (b : Block) : (s.setIv b).idbLen = s.idbLen := rfl
@[simp] theorem State.setIv_key (b : Block) : (s.setIv b).key = s.key := rfl
@[simp] theorem State.setIv_iv (b : Block) : (s.setIv b).iv = b := rfl
@[simp] theorem State.setIv_v (b : Block) : (s.setIv b).v = s.v := rfl
@[simp] theorem State.setIv_mem (b : Block) : (s.setIv b).mem = s.mem := rfl
@[simp] theorem State.setIv_entropy (b : Block) : (s.setIv b).entropy = s.entropy := rfl
@[simp] theorem State.setIv_draws (b : Block) : (s.setIv b).draws = s.draws := rfl
@[simp] theorem State.setIv_inbox (b : Block) : (s.setIv b).inbox = s.inbox := rfl
@[simp] theorem State.setIv_resp (b : Block) : (s.setIv b).resp = s.resp := rfl

@[simp] theorem State.writeM_ie (a : Nat) (bs : Bytes) : (s.writeM a bs).ie = s.ie := rfl
@[simp] theorem State.writeM_done (a : Nat) (bs : Bytes) : (s.writeM a bs).done = s.done := rfl
@[simp] theorem State.writeM_err (a : Nat) (bs : Bytes) : (s.writeM a bs).err = s.err := rfl
@[simp] theorem State.writeM_ign (a : Nat) (bs : Bytes) : (s.writeM a bs).ign = s.ign := rfl
@[simp] theorem State.writeM_errcode (a : Nat) (bs : Bytes) : (s.writeM a bs).errcode = s.errcode := rfl
@[simp] theorem State.writeM_cmd (a : Nat) (bs : Bytes) : (s.writeM a bs).cmd = s.cmd := rfl
@[simp] theorem State.writeM_pend (a : Nat) (bs : Bytes) : (s.writeM a bs).pend = s.pend := rfl
@[simp] theorem State.writeM_result (a : Nat) (bs : Bytes) : (s.writeM a bs).result = s.result := rfl
@[simp] theorem State.writeM_srcAddr (a : Nat) (bs : Bytes) : (s.writeM a bs).srcAddr = s.srcAddr := rfl
@[simp] theorem State.writeM_srcLen (a : Nat) (bs : Bytes) : (s.writeM a bs).srcLen = s.srcLen := rfl
@[simp] theorem State.writeM_dstAddr (a : Nat) (bs : Bytes) : (s.writeM a bs).dstAddr = s.dstAddr := rfl
@[simp] theorem State.writeM_dstCap (a : Nat) (bs : Bytes) : (s.writeM a bs).dstCap = s.dstCap := rfl
@[simp] theorem State.writeM_idaAddr (a : Nat) (bs : Bytes) : (s.writeM a bs).idaAddr = s.idaAddr := rfl
@[simp] theorem State.writeM_idaLen (a : Nat) (bs : Bytes) : (s.writeM a bs).idaLen = s.idaLen := rfl
@[simp] theorem State.writeM_idbAddr (a : Nat) (bs : Bytes) : (s.writeM a bs).idbAddr = s.idbAddr := rfl
@[simp] theorem State.writeM_idbLen (a : Nat) (bs : Bytes) : (s.writeM a bs).idbLen = s.idbLen := rfl
@[simp] theorem State.writeM_key (a : Nat) (bs : Bytes) : (s.writeM a bs).key = s.key := rfl
@[simp] theorem State.writeM_iv (a : Nat) (bs : Bytes) : (s.writeM a bs).iv = s.iv := rfl
@[simp] theorem State.writeM_v (a : Nat) (bs : Bytes) : (s.writeM a bs).v = s.v := rfl
@[simp] theorem State.writeM_mem (a : Nat) (bs : Bytes) : (s.writeM a bs).mem = s.mem.writeBytes a bs := rfl
@[simp] theorem State.writeM_entropy (a : Nat) (bs : Bytes) : (s.writeM a bs).entropy = s.entropy := rfl
@[simp] theorem State.writeM_draws (a : Nat) (bs : Bytes) : (s.writeM a bs).draws = s.draws := rfl
@[simp] theorem State.writeM_inbox (a : Nat) (bs : Bytes) : (s.writeM a bs).inbox = s.inbox := rfl
@[simp] theorem State.writeM_resp (a : Nat) (bs : Bytes) : (s.writeM a bs).resp = s.resp := rfl

@[simp] theorem State.finish_ie (c : Code) : (s.finish c).ie = s.ie := rfl
@[simp] theorem State.finish_done (c : Code) : (s.finish c).done = true := rfl
@[simp] theorem State.finish_err (c : Code) : (s.finish c).err = (s.err || c != .ok) := rfl
@[simp] theorem State.finish_ign (c : Code) : (s.finish c).ign = s.ign := rfl
@[simp] theorem State.finish_errcode (c : Code) : (s.finish c).errcode = c := rfl
@[simp] theorem State.finish_cmd (c : Code) : (s.finish c).cmd = s.cmd := rfl
@[simp] theorem State.finish_pend (c : Code) : (s.finish c).pend = none := rfl
@[simp] theorem State.finish_result (c : Code) : (s.finish c).result = s.result := rfl
@[simp] theorem State.finish_srcAddr (c : Code) : (s.finish c).srcAddr = s.srcAddr := rfl
@[simp] theorem State.finish_srcLen (c : Code) : (s.finish c).srcLen = s.srcLen := rfl
@[simp] theorem State.finish_dstAddr (c : Code) : (s.finish c).dstAddr = s.dstAddr := rfl
@[simp] theorem State.finish_dstCap (c : Code) : (s.finish c).dstCap = s.dstCap := rfl
@[simp] theorem State.finish_idaAddr (c : Code) : (s.finish c).idaAddr = s.idaAddr := rfl
@[simp] theorem State.finish_idaLen (c : Code) : (s.finish c).idaLen = s.idaLen := rfl
@[simp] theorem State.finish_idbAddr (c : Code) : (s.finish c).idbAddr = s.idbAddr := rfl
@[simp] theorem State.finish_idbLen (c : Code) : (s.finish c).idbLen = s.idbLen := rfl
@[simp] theorem State.finish_key (c : Code) : (s.finish c).key = s.key := rfl
@[simp] theorem State.finish_iv (c : Code) : (s.finish c).iv = s.iv := rfl
@[simp] theorem State.finish_v (c : Code) : (s.finish c).v = s.v := rfl
@[simp] theorem State.finish_mem (c : Code) : (s.finish c).mem = s.mem := rfl
@[simp] theorem State.finish_entropy (c : Code) : (s.finish c).entropy = s.entropy := rfl
@[simp] theorem State.finish_draws (c : Code) : (s.finish c).draws = s.draws := rfl
@[simp] theorem State.finish_inbox (c : Code) : (s.finish c).inbox = s.inbox := rfl
@[simp] theorem State.finish_resp (c : Code) : (s.finish c).resp = s.resp := rfl

@[simp] theorem State.accept_ie (w : Word) : (s.accept w).ie = s.ie := rfl
@[simp] theorem State.accept_done (w : Word) : (s.accept w).done = false := rfl
@[simp] theorem State.accept_err (w : Word) : (s.accept w).err = s.err := rfl
@[simp] theorem State.accept_ign (w : Word) : (s.accept w).ign = s.ign := rfl
@[simp] theorem State.accept_errcode (w : Word) : (s.accept w).errcode = s.errcode := rfl
@[simp] theorem State.accept_cmd (w : Word) : (s.accept w).cmd = w := rfl
@[simp] theorem State.accept_pend (w : Word) : (s.accept w).pend = some w := rfl
@[simp] theorem State.accept_result (w : Word) : (s.accept w).result = s.result := rfl
@[simp] theorem State.accept_srcAddr (w : Word) : (s.accept w).srcAddr = s.srcAddr := rfl
@[simp] theorem State.accept_srcLen (w : Word) : (s.accept w).srcLen = s.srcLen := rfl
@[simp] theorem State.accept_dstAddr (w : Word) : (s.accept w).dstAddr = s.dstAddr := rfl
@[simp] theorem State.accept_dstCap (w : Word) : (s.accept w).dstCap = s.dstCap := rfl
@[simp] theorem State.accept_idaAddr (w : Word) : (s.accept w).idaAddr = s.idaAddr := rfl
@[simp] theorem State.accept_idaLen (w : Word) : (s.accept w).idaLen = s.idaLen := rfl
@[simp] theorem State.accept_idbAddr (w : Word) : (s.accept w).idbAddr = s.idbAddr := rfl
@[simp] theorem State.accept_idbLen (w : Word) : (s.accept w).idbLen = s.idbLen := rfl
@[simp] theorem State.accept_key (w : Word) : (s.accept w).key = s.key := rfl
@[simp] theorem State.accept_iv (w : Word) : (s.accept w).iv = s.iv := rfl
@[simp] theorem State.accept_v (w : Word) : (s.accept w).v = s.v := rfl
@[simp] theorem State.accept_mem (w : Word) : (s.accept w).mem = s.mem := rfl
@[simp] theorem State.accept_entropy (w : Word) : (s.accept w).entropy = s.entropy := rfl
@[simp] theorem State.accept_draws (w : Word) : (s.accept w).draws = s.draws := rfl
@[simp] theorem State.accept_inbox (w : Word) : (s.accept w).inbox = s.inbox := rfl
@[simp] theorem State.accept_resp (w : Word) : (s.accept w).resp = s.resp := rfl

@[simp] theorem State.drawn_ie : (s.drawn).ie = s.ie := rfl
@[simp] theorem State.drawn_done : (s.drawn).done = s.done := rfl
@[simp] theorem State.drawn_err : (s.drawn).err = s.err := rfl
@[simp] theorem State.drawn_ign : (s.drawn).ign = s.ign := rfl
@[simp] theorem State.drawn_errcode : (s.drawn).errcode = s.errcode := rfl
@[simp] theorem State.drawn_cmd : (s.drawn).cmd = s.cmd := rfl
@[simp] theorem State.drawn_pend : (s.drawn).pend = s.pend := rfl
@[simp] theorem State.drawn_result : (s.drawn).result = s.result := rfl
@[simp] theorem State.drawn_srcAddr : (s.drawn).srcAddr = s.srcAddr := rfl
@[simp] theorem State.drawn_srcLen : (s.drawn).srcLen = s.srcLen := rfl
@[simp] theorem State.drawn_dstAddr : (s.drawn).dstAddr = s.dstAddr := rfl
@[simp] theorem State.drawn_dstCap : (s.drawn).dstCap = s.dstCap := rfl
@[simp] theorem State.drawn_idaAddr : (s.drawn).idaAddr = s.idaAddr := rfl
@[simp] theorem State.drawn_idaLen : (s.drawn).idaLen = s.idaLen := rfl
@[simp] theorem State.drawn_idbAddr : (s.drawn).idbAddr = s.idbAddr := rfl
@[simp] theorem State.drawn_idbLen : (s.drawn).idbLen = s.idbLen := rfl
@[simp] theorem State.drawn_key : (s.drawn).key = s.key := rfl
@[simp] theorem State.drawn_iv : (s.drawn).iv = s.iv := rfl
@[simp] theorem State.drawn_v : (s.drawn).v = s.v := rfl
@[simp] theorem State.drawn_mem : (s.drawn).mem = s.mem := rfl
@[simp] theorem State.drawn_entropy : (s.drawn).entropy = s.entropy.tail := rfl
@[simp] theorem State.drawn_draws : (s.drawn).draws = s.draws + 1 := rfl
@[simp] theorem State.drawn_inbox : (s.drawn).inbox = s.inbox := rfl
@[simp] theorem State.drawn_resp : (s.drawn).resp = s.resp := rfl

@[simp] theorem State.respond_ie (r : BusResponse) : (s.respond r).ie = s.ie := rfl
@[simp] theorem State.respond_done (r : BusResponse) : (s.respond r).done = s.done := rfl
@[simp] theorem State.respond_err (r : BusResponse) : (s.respond r).err = s.err := rfl
@[simp] theorem State.respond_ign (r : BusResponse) : (s.respond r).ign = s.ign := rfl
@[simp] theorem State.respond_errcode (r : BusResponse) : (s.respond r).errcode = s.errcode := rfl
@[simp] theorem State.respond_cmd (r : BusResponse) : (s.respond r).cmd = s.cmd := rfl
@[simp] theorem State.respond_pend (r : BusResponse) : (s.respond r).pend = s.pend := rfl
@[simp] theorem State.respond_result (r : BusResponse) : (s.respond r).result = s.result := rfl
@[simp] theorem State.respond_srcAddr (r : BusResponse) : (s.respond r).srcAddr = s.srcAddr := rfl
@[simp] theorem State.respond_srcLen (r : BusResponse) : (s.respond r).srcLen = s.srcLen := rfl
@[simp] theorem State.respond_dstAddr (r : BusResponse) : (s.respond r).dstAddr = s.dstAddr := rfl
@[simp] theorem State.respond_dstCap (r : BusResponse) : (s.respond r).dstCap = s.dstCap := rfl
@[simp] theorem State.respond_idaAddr (r : BusResponse) : (s.respond r).idaAddr = s.idaAddr := rfl
@[simp] theorem State.respond_idaLen (r : BusResponse) : (s.respond r).idaLen = s.idaLen := rfl
@[simp] theorem State.respond_idbAddr (r : BusResponse) : (s.respond r).idbAddr = s.idbAddr := rfl
@[simp] theorem State.respond_idbLen (r : BusResponse) : (s.respond r).idbLen = s.idbLen := rfl
@[simp] theorem State.respond_key (r : BusResponse) : (s.respond r).key = s.key := rfl
@[simp] theorem State.respond_iv (r : BusResponse) : (s.respond r).iv = s.iv := rfl
@[simp] theorem State.respond_v (r : BusResponse) : (s.respond r).v = s.v := rfl
@[simp] theorem State.respond_mem (r : BusResponse) : (s.respond r).mem = s.mem := rfl
@[simp] theorem State.respond_entropy (r : BusResponse) : (s.respond r).entropy = s.entropy := rfl
@[simp] theorem State.respond_draws (r : BusResponse) : (s.respond r).draws = s.draws := rfl
@[simp] theorem State.respond_inbox (r : BusResponse) : (s.respond r).inbox = s.inbox := rfl
@[simp] theorem State.respond_resp (r : BusResponse) : (s.respond r).resp = r := rfl

@[simp] theorem State.setInbox_ie (ts : List Turn) : (s.setInbox ts).ie = s.ie := rfl
@[simp] theorem State.setInbox_done (ts : List Turn) : (s.setInbox ts).done = s.done := rfl
@[simp] theorem State.setInbox_err (ts : List Turn) : (s.setInbox ts).err = s.err := rfl
@[simp] theorem State.setInbox_ign (ts : List Turn) : (s.setInbox ts).ign = s.ign := rfl
@[simp] theorem State.setInbox_errcode (ts : List Turn) : (s.setInbox ts).errcode = s.errcode := rfl
@[simp] theorem State.setInbox_cmd (ts : List Turn) : (s.setInbox ts).cmd = s.cmd := rfl
@[simp] theorem State.setInbox_pend (ts : List Turn) : (s.setInbox ts).pend = s.pend := rfl
@[simp] theorem State.setInbox_result (ts : List Turn) : (s.setInbox ts).result = s.result := rfl
@[simp] theorem State.setInbox_srcAddr (ts : List Turn) : (s.setInbox ts).srcAddr = s.srcAddr := rfl
@[simp] theorem State.setInbox_srcLen (ts : List Turn) : (s.setInbox ts).srcLen = s.srcLen := rfl
@[simp] theorem State.setInbox_dstAddr (ts : List Turn) : (s.setInbox ts).dstAddr = s.dstAddr := rfl
@[simp] theorem State.setInbox_dstCap (ts : List Turn) : (s.setInbox ts).dstCap = s.dstCap := rfl
@[simp] theorem State.setInbox_idaAddr (ts : List Turn) : (s.setInbox ts).idaAddr = s.idaAddr := rfl
@[simp] theorem State.setInbox_idaLen (ts : List Turn) : (s.setInbox ts).idaLen = s.idaLen := rfl
@[simp] theorem State.setInbox_idbAddr (ts : List Turn) : (s.setInbox ts).idbAddr = s.idbAddr := rfl
@[simp] theorem State.setInbox_idbLen (ts : List Turn) : (s.setInbox ts).idbLen = s.idbLen := rfl
@[simp] theorem State.setInbox_key (ts : List Turn) : (s.setInbox ts).key = s.key := rfl
@[simp] theorem State.setInbox_iv (ts : List Turn) : (s.setInbox ts).iv = s.iv := rfl
@[simp] theorem State.setInbox_v (ts : List Turn) : (s.setInbox ts).v = s.v := rfl
@[simp] theorem State.setInbox_mem (ts : List Turn) : (s.setInbox ts).mem = s.mem := rfl
@[simp] theorem State.setInbox_entropy (ts : List Turn) : (s.setInbox ts).entropy = s.entropy := rfl
@[simp] theorem State.setInbox_draws (ts : List Turn) : (s.setInbox ts).draws = s.draws := rfl
@[simp] theorem State.setInbox_inbox (ts : List Turn) : (s.setInbox ts).inbox = ts := rfl
@[simp] theorem State.setInbox_resp (ts : List Turn) : (s.setInbox ts).resp = s.resp := rfl

@[simp] theorem State.setIgn_ie : (s.setIgn).ie = s.ie := rfl
@[simp] theorem State.setIgn_done : (s.setIgn).done = s.done := rfl
@[simp] theorem State.setIgn_err : (s.setIgn).err = s.err := rfl
@[simp] theorem State.setIgn_ign : (s.setIgn).ign = true := rfl
@[simp] theorem State.setIgn_errcode : (s.setIgn).errcode = s.errcode := rfl
@[simp] theorem State.setIgn_cmd : (s.setIgn).cmd = s.cmd := rfl
@[simp] theorem State.setIgn_pend : (s.setIgn).pend = s.pend := rfl
@[simp] theorem State.setIgn_result : (s.setIgn).result = s.result := rfl
@[simp] theorem State.setIgn_srcAddr : (s.setIgn).srcAddr = s.srcAddr := rfl
@[simp] theorem State.setIgn_srcLen : (s.setIgn).srcLen = s.srcLen := rfl
@[simp] theorem State.setIgn_dstAddr : (s.setIgn).dstAddr = s.dstAddr := rfl
@[simp] theorem State.setIgn_dstCap : (s.setIgn).dstCap = s.dstCap := rfl
@[simp] theorem State.setIgn_idaAddr : (s.setIgn).idaAddr = s.idaAddr := rfl
@[simp] theorem State.setIgn_idaLen : (s.setIgn).idaLen = s.idaLen := rfl
@[simp] theorem State.setIgn_idbAddr : (s.setIgn).idbAddr = s.idbAddr := rfl
@[simp] theorem State.setIgn_idbLen : (s.setIgn).idbLen = s.idbLen := rfl
@[simp] theorem State.setIgn_key : (s.setIgn).key = s.key := rfl
@[simp] theorem State.setIgn_iv : (s.setIgn).iv = s.iv := rfl
@[simp] theorem State.setIgn_v : (s.setIgn).v = s.v := rfl
@[simp] theorem State.setIgn_mem : (s.setIgn).mem = s.mem := rfl
@[simp] theorem State.setIgn_entropy : (s.setIgn).entropy = s.entropy := rfl
@[simp] theorem State.setIgn_draws : (s.setIgn).draws = s.draws := rfl
@[simp] theorem State.setIgn_inbox : (s.setIgn).inbox = s.inbox := rfl
@[simp] theorem State.setIgn_resp : (s.setIgn).resp = s.resp := rfl

@[simp] theorem State.writeStatus_ie (x : Word) : (s.writeStatus x).ie = s.ie := rfl
@[simp] theorem State.writeStatus_done (x : Word) : (s.writeStatus x).done = (s.done && !x.getLsbD 1) := rfl
@[simp] theorem State.writeStatus_err (x : Word) : (s.writeStatus x).err = (s.err && !x.getLsbD 2) := rfl
@[simp] theorem State.writeStatus_ign (x : Word) : (s.writeStatus x).ign = (s.ign && !x.getLsbD 3) := rfl
@[simp] theorem State.writeStatus_errcode (x : Word) : (s.writeStatus x).errcode = s.errcode := rfl
@[simp] theorem State.writeStatus_cmd (x : Word) : (s.writeStatus x).cmd = s.cmd := rfl
@[simp] theorem State.writeStatus_pend (x : Word) : (s.writeStatus x).pend = s.pend := rfl
@[simp] theorem State.writeStatus_result (x : Word) : (s.writeStatus x).result = s.result := rfl
@[simp] theorem State.writeStatus_srcAddr (x : Word) : (s.writeStatus x).srcAddr = s.srcAddr := rfl
@[simp] theorem State.writeStatus_srcLen (x : Word) : (s.writeStatus x).srcLen = s.srcLen := rfl
@[simp] theorem State.writeStatus_dstAddr (x : Word) : (s.writeStatus x).dstAddr = s.dstAddr := rfl
@[simp] theorem State.writeStatus_dstCap (x : Word) : (s.writeStatus x).dstCap = s.dstCap := rfl
@[simp] theorem State.writeStatus_idaAddr (x : Word) : (s.writeStatus x).idaAddr = s.idaAddr := rfl
@[simp] theorem State.writeStatus_idaLen (x : Word) : (s.writeStatus x).idaLen = s.idaLen := rfl
@[simp] theorem State.writeStatus_idbAddr (x : Word) : (s.writeStatus x).idbAddr = s.idbAddr := rfl
@[simp] theorem State.writeStatus_idbLen (x : Word) : (s.writeStatus x).idbLen = s.idbLen := rfl
@[simp] theorem State.writeStatus_key (x : Word) : (s.writeStatus x).key = s.key := rfl
@[simp] theorem State.writeStatus_iv (x : Word) : (s.writeStatus x).iv = s.iv := rfl
@[simp] theorem State.writeStatus_v (x : Word) : (s.writeStatus x).v = s.v := rfl
@[simp] theorem State.writeStatus_mem (x : Word) : (s.writeStatus x).mem = s.mem := rfl
@[simp] theorem State.writeStatus_entropy (x : Word) : (s.writeStatus x).entropy = s.entropy := rfl
@[simp] theorem State.writeStatus_draws (x : Word) : (s.writeStatus x).draws = s.draws := rfl
@[simp] theorem State.writeStatus_inbox (x : Word) : (s.writeStatus x).inbox = s.inbox := rfl
@[simp] theorem State.writeStatus_resp (x : Word) : (s.writeStatus x).resp = s.resp := rfl

@[simp] theorem State.resetRegisters_ie : (s.resetRegisters).ie = false := rfl
@[simp] theorem State.resetRegisters_done : (s.resetRegisters).done = false := rfl
@[simp] theorem State.resetRegisters_err : (s.resetRegisters).err = false := rfl
@[simp] theorem State.resetRegisters_ign : (s.resetRegisters).ign = false := rfl
@[simp] theorem State.resetRegisters_errcode : (s.resetRegisters).errcode = .ok := rfl
@[simp] theorem State.resetRegisters_cmd : (s.resetRegisters).cmd = 0 := rfl
@[simp] theorem State.resetRegisters_pend : (s.resetRegisters).pend = none := rfl
@[simp] theorem State.resetRegisters_result : (s.resetRegisters).result = 0 := rfl
@[simp] theorem State.resetRegisters_srcAddr : (s.resetRegisters).srcAddr = 0 := rfl
@[simp] theorem State.resetRegisters_srcLen : (s.resetRegisters).srcLen = 0 := rfl
@[simp] theorem State.resetRegisters_dstAddr : (s.resetRegisters).dstAddr = 0 := rfl
@[simp] theorem State.resetRegisters_dstCap : (s.resetRegisters).dstCap = 0 := rfl
@[simp] theorem State.resetRegisters_idaAddr : (s.resetRegisters).idaAddr = 0 := rfl
@[simp] theorem State.resetRegisters_idaLen : (s.resetRegisters).idaLen = 0 := rfl
@[simp] theorem State.resetRegisters_idbAddr : (s.resetRegisters).idbAddr = 0 := rfl
@[simp] theorem State.resetRegisters_idbLen : (s.resetRegisters).idbLen = 0 := rfl
@[simp] theorem State.resetRegisters_key : (s.resetRegisters).key = zeroBlock := rfl
@[simp] theorem State.resetRegisters_iv : (s.resetRegisters).iv = zeroBlock := rfl
@[simp] theorem State.resetRegisters_v : (s.resetRegisters).v = Vector.replicate 4 zeroBlock := rfl
@[simp] theorem State.resetRegisters_mem : (s.resetRegisters).mem = s.mem := rfl
@[simp] theorem State.resetRegisters_entropy : (s.resetRegisters).entropy = s.entropy := rfl
@[simp] theorem State.resetRegisters_draws : (s.resetRegisters).draws = s.draws := rfl
@[simp] theorem State.resetRegisters_inbox : (s.resetRegisters).inbox = s.inbox := rfl
@[simp] theorem State.resetRegisters_resp : (s.resetRegisters).resp = s.resp := rfl

@[simp] theorem State.complete_eq : s.complete = s.finish .ok := rfl
@[simp] theorem State.raise_eq (c : Code) : s.raise c = s.finish c := rfl
@[simp] theorem State.getV_eq (n : VReg) : s.getV n = s.v[n] := rfl

end Sys2Proof.Machine
end

