-- ==== Sys2Proof/Laws/Commands.lean ====
section
/-! SUPPORT. What each command can do, said once: the cases of KDF, CBCENC and CBCDEC, the cases of any
command (`exec_cases`), and that no command and no core turn stops. -/

namespace Sys2Proof.Machine

/-- KDF ends with BUS_ERROR exactly when an identifier is out of range (44_key_derivation.md R183). -/
theorem kdfUnder_cases (P : Params) (s : State) :
    ((¬ InRange P s.idaAddr.toNat s.idaLen.toNat ∨ ¬ InRange P s.idbAddr.toNat s.idbLen.toNat) ∧
      kdfUnder P s = s.finish .busError) ∨
    (InRange P s.idaAddr.toNat s.idaLen.toNat ∧ InRange P s.idbAddr.toNat s.idbLen.toNat ∧
      kdfUnder P s = (s.setKey (deriveKey P s.identA s.identB)).finish .ok) := by
  unfold kdfUnder
  split
  · next h => exact .inl ⟨h, rfl⟩
  · next h =>
    rw [not_or, not_not, not_not] at h
    exact .inr ⟨h.1, h.2, rfl⟩

/-- The checks of CBCENC: the first that fails, or all pass (46_cbc.md R225). -/
theorem cbcencCheck_cases (P : Params) (s : State) :
    (¬ InRange P s.srcAddr.toNat s.srcLen.toNat ∧ cbcencCheck P s = .busError) ∨
    (InRange P s.srcAddr.toNat s.srcLen.toNat ∧
      ((s.dstCap.toNat < envelopeLength s.srcLen.toNat ∧ cbcencCheck P s = .capacity) ∨
      (envelopeLength s.srcLen.toNat ≤ s.dstCap.toNat ∧
        ((¬ InRange P s.dstAddr.toNat (envelopeLength s.srcLen.toNat) ∧ cbcencCheck P s = .busError) ∨
        (InRange P s.dstAddr.toNat (envelopeLength s.srcLen.toNat) ∧
          ((Overlap s.srcAddr.toNat s.srcLen.toNat s.dstAddr.toNat (envelopeLength s.srcLen.toNat) ∧
            cbcencCheck P s = .overlap) ∨
          (¬ Overlap s.srcAddr.toNat s.srcLen.toNat s.dstAddr.toNat (envelopeLength s.srcLen.toNat) ∧
            cbcencCheck P s = .ok))))))) := by
  unfold cbcencCheck
  simp only
  by_cases h1 : InRange P s.srcAddr.toNat s.srcLen.toNat
  · rw [if_neg (not_not.2 h1)]
    refine .inr ⟨h1, ?_⟩
    by_cases h2 : s.dstCap.toNat < envelopeLength s.srcLen.toNat
    · exact .inl ⟨h2, if_pos h2⟩
    · rw [if_neg h2]
      refine .inr ⟨Nat.le_of_not_lt h2, ?_⟩
      by_cases h3 : InRange P s.dstAddr.toNat (envelopeLength s.srcLen.toNat)
      · rw [if_neg (not_not.2 h3)]
        refine .inr ⟨h3, ?_⟩
        by_cases h4 : Overlap s.srcAddr.toNat s.srcLen.toNat s.dstAddr.toNat (envelopeLength s.srcLen.toNat)
        · exact .inl ⟨h4, if_pos h4⟩
        · exact .inr ⟨h4, if_neg h4⟩
      · exact .inl ⟨h3, if_pos h3⟩
  · exact .inl ⟨h1, if_pos h1⟩

/-- CBCENC: a check fails and nothing is drawn; or the draw fails; or the envelope is written. -/
theorem cbcencUnder_cases (P : Params) (s : State) :
    (cbcencCheck P s ≠ .ok ∧ cbcencUnder P s = s.finish (cbcencCheck P s)) ∨
    (cbcencCheck P s = .ok ∧ s.nextDraw = none ∧ cbcencUnder P s = s.drawn.finish .entropyError) ∨
    ∃ ivv, cbcencCheck P s = .ok ∧ s.nextDraw = some ivv ∧
      cbcencUnder P s = (cbcencWrite P ivv s.drawn).finish .ok := by
  by_cases hc : cbcencCheck P s = .ok
  · right
    cases hd : s.nextDraw with
    | none => left; simp [cbcencUnder, hc, hd]
    | some ivv => right; exact ⟨ivv, hc, rfl, by simp [cbcencUnder, hc, hd]⟩
  · left
    refine ⟨hc, ?_⟩
    unfold cbcencUnder
    cases h : cbcencCheck P s <;> first | rfl | exact absurd h hc

/-- The codes that a failing check of CBCDEC gives (R226, R264). -/
theorem cbcdecCheck_error {P : Params} {s : State} {c : Code} (h : cbcdecCheck P s = .error c) :
    c = .invalidLength ∨ c = .busError ∨ c = .invalidPadding ∨ c = .capacity ∨ c = .overlap := by
  unfold cbcdecCheck at h
  simp only at h
  repeat' split at h
  all_goals first | (cases h; simp) | cases h

/-- All the checks of CBCDEC pass exactly under the conditions of R226. -/
theorem cbcdecCheck_ok {P : Params} {s : State} {p : Bytes} :
    cbcdecCheck P s = .ok p ↔
      EnvelopeLengthOk s.srcLen.toNat ∧ InRange P s.srcAddr.toNat s.srcLen.toNat ∧
      cbcDecrypt P s.source s.key = some p ∧ p.length ≤ s.dstCap.toNat ∧
      InRange P s.dstAddr.toNat p.length ∧
      ¬ Overlap s.srcAddr.toNat s.srcLen.toNat s.dstAddr.toNat p.length := by
  unfold cbcdecCheck
  simp only
  split
  · next h => simp [h]
  · next h1 =>
    split
    · next h => simp [h]
    · next h2 =>
      rw [not_not] at h1 h2
      split
      · next h => simp [h]
      · next q h =>
        split
        · next h3 =>
          simp only [reduceCtorEq, h, Option.some.injEq, false_iff]
          rintro ⟨-, -, rfl, h4, -⟩
          omega
        · next h3 =>
          split
          · next h4 =>
            simp only [reduceCtorEq, h, Option.some.injEq, false_iff]
            rintro ⟨-, -, rfl, -, h5, -⟩
            exact h4 h5
          · next h4 =>
            split
            · next h5 =>
              simp only [reduceCtorEq, h, Option.some.injEq, false_iff]
              rintro ⟨-, -, rfl, -, -, h6⟩
              exact h6 h5
            · next h5 =>
              simp only [Except.ok.injEq, h, Option.some.injEq]
              constructor
              · rintro rfl
                exact ⟨h1, h2, rfl, Nat.le_of_not_lt h3, not_not.1 h4, h5⟩
              · exact fun h => h.2.2.1

/-- CBCDEC: a check fails, or the plaintext is written. -/
theorem cbcdecUnder_cases (P : Params) (s : State) :
    (∃ c, cbcdecCheck P s = .error c ∧ cbcdecUnder P s = s.finish c) ∨
    ∃ p, cbcdecCheck P s = .ok p ∧ cbcdecUnder P s = (cbcdecWrite p s).finish .ok := by
  cases h : cbcdecCheck P s with
  | error c => exact .inl ⟨c, rfl, by simp [cbcdecUnder, h]⟩
  | ok p => exact .inr ⟨p, rfl, by simp [cbcdecUnder, h]⟩

/-- A plaintext is at least 17 bytes shorter than its envelope (R226). -/
theorem cbcDecrypt_length {P : Params} {x p : Bytes} {key : Block} (h : cbcDecrypt P x key = some p) :
    p.length + 17 ≤ x.length := by
  have h1 := unpad_length h
  rw [cbcRecover_length] at h1
  omega

/-- What a command can do, in every case: `exec` answers a next state, and it is one of these. -/
theorem exec_cases (i : Instr) (s : State) :
    ∃ t, exec i s = .next t ∧
      ((i = .nop ∧ t = s.finish .ok) ∨
      (∃ vd b, destV i = some vd ∧ t = (s.setV vd b).finish .ok) ∨
      (∃ x, writesResult i = true ∧ i ≠ .cbcenc ∧ i ≠ .cbcdec ∧ t = (s.setResult x).finish .ok) ∨
      (i = .kdf ∧ t = kdfUnder Config.params s) ∨
      (i = .cbcenc ∧ t = cbcencUnder Config.params s) ∨
      (i = .cbcdec ∧ t = cbcdecUnder Config.params s)) := by
  cases i
  case nop => exact ⟨_, rfl, .inl ⟨rfl, rfl⟩⟩
  case kdf => exact ⟨_, rfl, by simp⟩
  case cbcenc => exact ⟨_, rfl, by simp⟩
  case cbcdec => exact ⟨_, rfl, by simp⟩
  case gfmul => exact ⟨_, rfl, .inr (.inr (.inl ⟨_, rfl, by simp, by simp, rfl⟩))⟩
  case sbox => exact ⟨_, rfl, .inr (.inr (.inl ⟨_, rfl, by simp, by simp, rfl⟩))⟩
  case isbox => exact ⟨_, rfl, .inr (.inr (.inl ⟨_, rfl, by simp, by simp, rfl⟩))⟩
  case valid => exact ⟨_, rfl, .inr (.inr (.inl ⟨_, rfl, by simp, by simp, rfl⟩))⟩
  all_goals exact ⟨_, rfl, .inr (.inl ⟨_, _, rfl, rfl⟩)⟩

/-- The core's turn: idle, an illegal word, or the command that PEND decodes to (10_state.md R26). -/
theorem coreTurn_cases (s : State) :
    (s.pend = none ∧ coreTurn s = .next s) ∨
    (∃ w, s.pend = some w ∧ decode w = none ∧ coreTurn s = .next (s.finish .illegalCmd)) ∨
    ∃ w i, s.pend = some w ∧ decode w = some i ∧ coreTurn s = exec i s := by
  cases h : s.pend with
  | none => exact .inl ⟨rfl, by simp [coreTurn, h]⟩
  | some w =>
    cases hd : decode w with
    | none => exact .inr (.inl ⟨w, rfl, hd, by simp [coreTurn, h, hd]⟩)
    | some i => exact .inr (.inr ⟨w, i, rfl, hd, by simp [coreTurn, h, hd]⟩)

/-- A step on the core's turn. -/
theorem step_core {s : State} {rest : List Turn} (h : s.CoreHasTurn rest) :
    step s = coreTurn (s.setInbox rest) := by
  rcases h with h | ⟨h, rfl⟩ <;> simp [step, h, nextTurn, takeTurn]

/-- A step on another agent's turn. -/
theorem step_turn {s : State} {t : Turn} {rest : List Turn} (h : s.inbox = t :: rest) :
    step s = takeTurn t (s.setInbox rest) := by
  simp [step, h, nextTurn]

/-- Whose step it can be. -/
theorem turn_cases (s : State) :
    (∃ rest, s.CoreHasTurn rest) ∨ (∃ a rest, s.inbox = .host a :: rest) ∨
      ∃ rest, s.inbox = .hardReset :: rest := by
  cases h : s.inbox with
  | nil => exact .inl ⟨[], .inr ⟨h, rfl⟩⟩
  | cons t ts =>
    cases t with
    | host a => exact .inr (.inl ⟨a, ts, rfl⟩)
    | core => exact .inl ⟨ts, .inl h⟩
    | hardReset => exact .inr (.inr ⟨ts, rfl⟩)

end Sys2Proof.Machine
end

