-- ==== Sys2Proof/Laws/PerInstr.lean ====
section
/-! SUPPORT. Statements made per instruction. `RowMatch`: the word of an instruction is selected by a
row of the opcode map that names it (30_encoding.md R84). -/

namespace Sys2Proof.Laws.RowMatch

/-- Some row of the map names the instruction and selects its word. -/
def Statement (i : Instr) : Prop := ∃ r ∈ opcodeTable, r.op = i.opcode ∧ r.selects (encode i) = true

/-- A mask that keeps or drops each field whole acts on the fields one by one. -/
theorem wordOf_and (f g : Fields) : wordOf f &&& wordOf g =
    wordOf ⟨f.op &&& g.op, f.vd &&& g.vd, f.vs &&& g.vs, f.rsv &&& g.rsv, f.immA &&& g.immA, f.immB &&& g.immB⟩ := by
  have h : ∀ x y : Word, fieldsOf (x &&& y) =
      ⟨(fieldsOf x).op &&& (fieldsOf y).op, (fieldsOf x).vd &&& (fieldsOf y).vd,
        (fieldsOf x).vs &&& (fieldsOf y).vs, (fieldsOf x).rsv &&& (fieldsOf y).rsv,
        (fieldsOf x).immA &&& (fieldsOf y).immA, (fieldsOf x).immB &&& (fieldsOf y).immB⟩ := by
    intro x y
    simp only [fieldsOf, BitVec.extractLsb'_and]
  rw [← wordOf_fieldsOf (wordOf f &&& wordOf g), h, fieldsOf_wordOf, fieldsOf_wordOf]

/-- A word is selected when its fields under the mask's are the pattern's. -/
theorem selects_of_fields {op : Opcode} {p m : Word} {f g : Fields} (hm : m = wordOf g)
    (hp : p = wordOf ⟨f.op &&& g.op, f.vd &&& g.vd, f.vs &&& g.vs, f.rsv &&& g.rsv,
      f.immA &&& g.immA, f.immB &&& g.immB⟩) : Row.selects ⟨op, p, m⟩ (wordOf f) = true := by
  subst hm hp
  simp [Row.selects, wordOf_and]

theorem selects_i2 (op : Opcode) (a b : Byte) :
    Row.selects ⟨op, wordOf (fieldsN op), 0x0000FFFF⟩ (wordOf (fieldsI op a b)) = true :=
  selects_of_fields (g := ⟨0xFF, 3, 3, 0xF, 0, 0⟩) (by decide) (by cases op <;> simp [fieldsN, fieldsI, Opcode.opByte])

theorem selects_i1 (op : Opcode) (a : Byte) :
    Row.selects ⟨op, wordOf (fieldsN op), 0xFF00FFFF⟩ (wordOf (fieldsI op a 0)) = true :=
  selects_of_fields (g := ⟨0xFF, 3, 3, 0xF, 0, 0xFF⟩) (by decide) (by cases op <;> simp [fieldsN, fieldsI, Opcode.opByte])

theorem selects_r2 (op : Opcode) (vd vs : VReg) :
    Row.selects ⟨op, wordOf (fieldsN op), 0xFFFFF0FF⟩ (wordOf (fieldsR op vd vs 0)) = true :=
  selects_of_fields (g := ⟨0xFF, 0, 0, 0xF, 0xFF, 0xFF⟩) (by decide) (by cases op <;> simp [fieldsN, fieldsR, Opcode.opByte])

theorem selects_r2i (op : Opcode) (vd vs : VReg) (r : Byte) :
    Row.selects ⟨op, wordOf (fieldsN op), 0xFF00F0FF⟩ (wordOf (fieldsR op vd vs r)) = true :=
  selects_of_fields (g := ⟨0xFF, 0, 0, 0xF, 0, 0xFF⟩) (by decide) (by cases op <;> simp [fieldsN, fieldsR, Opcode.opByte])

theorem selects_r1i (op : Opcode) (vd : VReg) (r : Byte) :
    Row.selects ⟨op, wordOf (fieldsN op), 0xFF00FCFF⟩ (wordOf (fieldsR op vd 0 r)) = true :=
  selects_of_fields (g := ⟨0xFF, 0, 3, 0xF, 0, 0xFF⟩) (by decide) (by cases op <;> simp [fieldsN, fieldsR, Opcode.opByte, vregField])

theorem nop : Statement .nop := ⟨⟨.nop, 0x00000000, 0xFFFFFFFF⟩, by decide, rfl, by decide⟩

theorem gfmul (a b : Byte) : Statement (.gfmul a b) :=
  ⟨⟨.gfmul, 0x00000001, 0x0000FFFF⟩, by decide, rfl, selects_i2 .gfmul a b⟩

theorem sbox (x : Byte) : Statement (.sbox x) :=
  ⟨⟨.sbox, 0x00000002, 0xFF00FFFF⟩, by decide, rfl, selects_i1 .sbox x⟩

theorem isbox (y : Byte) : Statement (.isbox y) :=
  ⟨⟨.isbox, 0x00000003, 0xFF00FFFF⟩, by decide, rfl, selects_i1 .isbox y⟩

theorem mov (vd vs : VReg) : Statement (.mov vd vs) :=
  ⟨⟨.mov, 0x00000010, 0xFFFFF0FF⟩, by decide, rfl, selects_r2 .mov vd vs⟩

theorem sub (vd vs : VReg) : Statement (.sub vd vs) :=
  ⟨⟨.sub, 0x00000011, 0xFFFFF0FF⟩, by decide, rfl, selects_r2 .sub vd vs⟩

theorem isub (vd vs : VReg) : Statement (.isub vd vs) :=
  ⟨⟨.isub, 0x00000012, 0xFFFFF0FF⟩, by decide, rfl, selects_r2 .isub vd vs⟩

theorem rot (vd vs : VReg) : Statement (.rot vd vs) :=
  ⟨⟨.rot, 0x00000013, 0xFFFFF0FF⟩, by decide, rfl, selects_r2 .rot vd vs⟩

theorem irot (vd vs : VReg) : Statement (.irot vd vs) :=
  ⟨⟨.irot, 0x00000014, 0xFFFFF0FF⟩, by decide, rfl, selects_r2 .irot vd vs⟩

theorem mix (vd vs : VReg) : Statement (.mix vd vs) :=
  ⟨⟨.mix, 0x00000015, 0xFFFFF0FF⟩, by decide, rfl, selects_r2 .mix vd vs⟩

theorem imix (vd vs : VReg) : Statement (.imix vd vs) :=
  ⟨⟨.imix, 0x00000016, 0xFFFFF0FF⟩, by decide, rfl, selects_r2 .imix vd vs⟩

theorem xor (vd vs : VReg) : Statement (.xor vd vs) :=
  ⟨⟨.xor, 0x00000017, 0xFFFFF0FF⟩, by decide, rfl, selects_r2 .xor vd vs⟩

theorem xkey (vd vs : VReg) : Statement (.xkey vd vs) :=
  ⟨⟨.xkey, 0x00000018, 0xFFFFF0FF⟩, by decide, rfl, selects_r2 .xkey vd vs⟩

theorem xrk (vd vs : VReg) (r : Byte) : Statement (.xrk vd vs r) :=
  ⟨⟨.xrk, 0x00000019, 0xFF00F0FF⟩, by decide, rfl, selects_r2i .xrk vd vs r⟩

theorem rkey (vd : VReg) (r : Byte) : Statement (.rkey vd r) :=
  ⟨⟨.rkey, 0x0000001A, 0xFF00FCFF⟩, by decide, rfl, selects_r1i .rkey vd r⟩

theorem round (vd vs : VReg) (r : Byte) : Statement (.round vd vs r) :=
  ⟨⟨.round, 0x0000001B, 0xFF00F0FF⟩, by decide, rfl, selects_r2i .round vd vs r⟩

theorem iround (vd vs : VReg) (r : Byte) : Statement (.iround vd vs r) :=
  ⟨⟨.iround, 0x0000001C, 0xFF00F0FF⟩, by decide, rfl, selects_r2i .iround vd vs r⟩

theorem encb (vd vs : VReg) : Statement (.encb vd vs) :=
  ⟨⟨.encb, 0x00000020, 0xFFFFF0FF⟩, by decide, rfl, selects_r2 .encb vd vs⟩

theorem decb (vd vs : VReg) : Statement (.decb vd vs) :=
  ⟨⟨.decb, 0x00000021, 0xFFFFF0FF⟩, by decide, rfl, selects_r2 .decb vd vs⟩

theorem kdf : Statement .kdf := ⟨⟨.kdf, 0x00000030, 0xFFFFFFFF⟩, by decide, rfl, by decide⟩

theorem cbcenc : Statement .cbcenc := ⟨⟨.cbcenc, 0x00000040, 0xFFFFFFFF⟩, by decide, rfl, by decide⟩

theorem cbcdec : Statement .cbcdec := ⟨⟨.cbcdec, 0x00000041, 0xFFFFFFFF⟩, by decide, rfl, by decide⟩

theorem valid : Statement .valid := ⟨⟨.valid, 0x00000042, 0xFFFFFFFF⟩, by decide, rfl, by decide⟩

end Sys2Proof.Laws.RowMatch
end

