-- ==== Sys2Proof/Laws/Turns.lean ====
section
/-! SUPPORT. What a host access to M can do, said once: refused outside M, a fault in a hazardous range
(70_reset_and_hazards.md R298), else done. -/

namespace Sys2Proof.Machine

theorem meetsRange_iff {rs : List (Nat × Nat)} {a n : Nat} :
    meetsRange rs a n = true ↔ ∃ r ∈ rs, Overlap a n r.1 r.2 := by
  simp [meetsRange]

/-- Which ranges are pending does not depend on the turns to come. -/
theorem pendingRanges_setInbox (s : State) (ts : List Turn) :
    (s.setInbox ts).rangesInUse = s.rangesInUse ∧ (s.setInbox ts).rangesToWrite = s.rangesToWrite := by
  simp only [State.rangesInUse, State.rangesToWrite, State.pendingRanges, State.setInbox_pend]
  cases s.pend.bind decode with
  | none => exact ⟨rfl, rfl⟩
  | some i => cases i <;> exact ⟨rfl, rfl⟩

/-- With nothing pending, or an illegal word, no range is in use. -/
theorem pendingRanges_none {s : State} (h : ∀ w, s.pend = some w → decode w = none)
    (f : Instr → State → List (Nat × Nat)) : s.pendingRanges f = [] := by
  unfold State.pendingRanges
  cases hp : s.pend with
  | none => rfl
  | some w => simp [h w hp]

theorem pendingRanges_some {s : State} {w : Word} {i : Instr} (hp : s.pend = some w)
    (hd : decode w = some i) (f : Instr → State → List (Nat × Nat)) : s.pendingRanges f = f i s := by
  simp [State.pendingRanges, hp, hd]

theorem hostReadMem_cases (P : Params) (a n : Nat) (s : State) :
    (¬ InRange P a n ∧ hostReadMem P a n s = .refused .hostOutsideM) ∨
    (InRange P a n ∧ (∃ r ∈ s.rangesToWrite, Overlap a n r.1 r.2) ∧
      hostReadMem P a n s = .fault .bufferHazard) ∨
    (InRange P a n ∧ (∀ r ∈ s.rangesToWrite, ¬ Overlap a n r.1 r.2) ∧
      hostReadMem P a n s = .next (s.respond (.bytes (s.mem.readBytes a n)))) := by
  unfold hostReadMem
  by_cases h : InRange P a n
  · rw [if_neg (not_not.2 h)]
    by_cases hz : ∃ r ∈ s.rangesToWrite, Overlap a n r.1 r.2
    · exact .inr (.inl ⟨h, hz, if_pos (meetsRange_iff.2 hz)⟩)
    · refine .inr (.inr ⟨h, fun r hr ho => hz ⟨r, hr, ho⟩, ?_⟩)
      rw [if_neg fun hm => hz (meetsRange_iff.1 hm)]
  · exact .inl ⟨h, if_pos h⟩

theorem hostWriteMem_cases (P : Params) (a : Nat) (bs : Bytes) (s : State) :
    (¬ InRange P a bs.length ∧ hostWriteMem P a bs s = .refused .hostOutsideM) ∨
    (InRange P a bs.length ∧ (∃ r ∈ s.rangesInUse, Overlap a bs.length r.1 r.2) ∧
      hostWriteMem P a bs s = .fault .bufferHazard) ∨
    (InRange P a bs.length ∧ (∀ r ∈ s.rangesInUse, ¬ Overlap a bs.length r.1 r.2) ∧
      hostWriteMem P a bs s = .next ((s.writeM a bs).respond .ack)) := by
  unfold hostWriteMem
  by_cases h : InRange P a bs.length
  · rw [if_neg (not_not.2 h)]
    by_cases hz : ∃ r ∈ s.rangesInUse, Overlap a bs.length r.1 r.2
    · exact .inr (.inl ⟨h, hz, if_pos (meetsRange_iff.2 hz)⟩)
    · refine .inr (.inr ⟨h, fun r hr ho => hz ⟨r, hr, ho⟩, ?_⟩)
      rw [if_neg fun hm => hz (meetsRange_iff.1 hm)]
  · exact .inl ⟨h, if_pos h⟩

end Sys2Proof.Machine
end

