-- ==== Sys2Proof/Tests/TestInstance.lean ====
section
/-! SUPPORT. The test instance TI-A of 95_test_vectors.md: the AES S-box and mix matrices, SHA-256,
the salt "TI-A-SALT", MEM_SIZE 0x10000. It is NOT this hardware's configuration; it exists so that the
functions, which take the parameters as an argument, can be held against the spec's vectors. -/

namespace Sys2Proof.Tests

open Sys2Proof.Machine

/-- The AES S-box (FIPS-197), 16 entries to a number, first entry in the top byte. -/
def aesSboxRows : List Nat :=
  [0x637c777bf26b6fc53001672bfed7ab76, 0xca82c97dfa5947f0add4a2af9ca472c0,
   0xb7fd9326363ff7cc34a5e5f171d83115, 0x04c723c31896059a071280e2eb27b275,
   0x09832c1a1b6e5aa0523bd6b329e32f84, 0x53d100ed20fcb15b6acbbe394a4c58cf,
   0xd0efaafb434d338545f9027f503c9fa8, 0x51a3408f929d38f5bcb6da2110fff3d2,
   0xcd0c13ec5f974417c4a77e3d645d1973, 0x60814fdc222a908846eeb814de5e0bdb,
   0xe0323a0a4906245cc2d3ac629195e479, 0xe7c8376d8dd54ea96c56f4ea657aae08,
   0xba78252e1ca6b4c6e8dd741f4bbd8b8a, 0x703eb5664803f60e613557b986c11d9e,
   0xe1f8981169d98e949b1e87e9ce5528df, 0x8ca1890dbfe6426841992d0fb054bb16]

/-- Its inverse. -/
def aesInvSboxRows : List Nat :=
  [0x52096ad53036a538bf40a39e81f3d7fb, 0x7ce339829b2fff87348e4344c4dee9cb,
   0x547b9432a6c2233dee4c950b42fac34e, 0x082ea16628d924b2765ba2496d8bd125,
   0x72f8f66486689816d4a45ccc5d65b692, 0x6c704850fdedb9da5e154657a78d9d84,
   0x90d8ab008cbcd30af7e45805b8b34506, 0xd02c1e8fca3f0f02c1afbd0301138a6b,
   0x3a9111414f67dcea97f2cfcef0b4e673, 0x96ac7422e7ad3585e2f937e81c75df6e,
   0x47f11a711d29c5896fb7620eaa18be1b, 0xfc563e4bc6d279209adbc0fe78cd5af4,
   0x1fdda8338807c731b11210592780ec5f, 0x60517fa919b54a0d2de57a9f93c99cef,
   0xa0e03b4dae2af5b0c8ebbb3c83539961, 0x172b047eba77d626e169146355210c7d]

/-- Entry `x` of such a table. -/
def tableEntry (rows : List Nat) (x : Byte) : Byte :=
  BitVec.ofNat 8 (rows.getD (x.toNat / 16) 0 / 256 ^ (15 - x.toNat % 16))

def aesSbox (x : Byte) : Byte := tableEntry aesSboxRows x

def aesInvSbox (x : Byte) : Byte := tableEntry aesInvSboxRows x

/-- A 4x4 matrix from its 16 entries, row by row. -/
def matrixOf (l : List Byte) (r k : Fin 4) : Byte := l.getD (4 * r.val + k.val) 0

def aesMix : Fin 4 → Fin 4 → Byte := matrixOf [2, 3, 1, 1, 1, 2, 3, 1, 1, 1, 2, 3, 3, 1, 1, 2]

def aesInvMix : Fin 4 → Fin 4 → Byte :=
  matrixOf [14, 11, 13, 9, 9, 14, 11, 13, 13, 9, 14, 11, 11, 13, 9, 14]

/-! SHA-256 (FIPS 180-4), its constants computed from their definition: digits of roots of primes. -/

/-- The primes below `n`, for `n` at most 19 squared. -/
def primesBelow (n : Nat) : List Nat :=
  (List.range n).filter fun p => 1 < p && [2, 3, 5, 7, 11, 13, 17].all fun d => p == d || p % d != 0

/-- The largest `k`-th root of at most `n`, its last `bits` binary digits found from the top, `r` so far. -/
def rootDigits (k n : Nat) : Nat → Nat → Nat
  | 0, r => r
  | bits + 1, r => rootDigits k n bits (if (r + 2 ^ bits) ^ k ≤ n then r + 2 ^ bits else r)

/-- The first 32 binary digits after the point of the `k`-th root of `p`, for a root below 16. -/
def rootFraction (k p : Nat) : Word := BitVec.ofNat 32 (rootDigits k (p * 2 ^ (32 * k)) 36 0)

/-- One word for each of the 64 rounds: cube roots of the primes below 312. -/
def roundWords : List Word := (primesBelow 312).map (rootFraction 3)

/-- The chaining value before the first chunk: square roots of the primes below 20. -/
def initialWords : List Word := (primesBelow 20).map (rootFraction 2)

/-- The exclusive-or of rotations of a word. -/
def xorRotations (rs : List Nat) (x : Word) : Word := (rs.map x.rotateRight).foldr (· ^^^ ·) 0

/-- The message schedule as a sliding window of 16 words, oldest first: `n` words from it on. -/
def scheduleFrom : Nat → List Word → List Word
  | 0, _ => []
  | n + 1, win =>
    let at' := fun i => win.getD i 0
    let low := xorRotations [7, 18] (at' 1) ^^^ (at' 1 >>> 3)
    let high := xorRotations [17, 19] (at' 14) ^^^ (at' 14 >>> 10)
    at' 0 :: scheduleFrom n (win.drop 1 ++ [at' 0 + at' 9 + low + high])

/-- One round on the eight working words; `kw` is the round word plus the schedule word. -/
def mixWords (ws : List Word) (kw : Word) : List Word :=
  let at' := fun i => ws.getD i 0
  let choice := at' 6 ^^^ (at' 4 &&& (at' 5 ^^^ at' 6))
  let majority := (at' 0 &&& (at' 1 ||| at' 2)) ||| (at' 1 &&& at' 2)
  let fresh := kw + at' 7 + choice + xorRotations [6, 11, 25] (at' 4)
  [fresh + majority + xorRotations [2, 13, 22] (at' 0), at' 0, at' 1, at' 2, at' 3 + fresh, at' 4, at' 5, at' 6]

/-- The big-endian words of a byte string, `n` of them. -/
def bigEndianWords (n : Nat) (l : Bytes) : List Word :=
  (List.range n).map fun i =>
    (List.range 4).foldl (fun acc j => (acc <<< 8) ||| (l.getD (4 * i + j) 0).setWidth 32) 0

/-- The chaining value after `n` more chunks of 64 bytes. -/
def absorb : Nat → Bytes → List Word → List Word
  | 0, _, chain => chain
  | n + 1, l, chain =>
    let sums := List.zipWith (· + ·) roundWords (scheduleFrom 64 (bigEndianWords 16 l))
    absorb n (l.drop 64) (List.zipWith (· + ·) chain (sums.foldl mixWords chain))

/-- SHA-256, for messages below 2^32 bits: a 1 bit, zeros, and the bit length in the last chunk. -/
def sha256 (m : Bytes) : Digest :=
  let chunks := (m.length + 9 + 63) / 64
  let lengthBytes := (List.range 4).map fun i => BitVec.ofNat 8 (8 * m.length / 256 ^ (3 - i))
  let padded := m ++ 0x80 :: List.replicate (64 * chunks - m.length - 5) 0 ++ lengthBytes
  let out := absorb chunks padded initialWords
  Vector.ofFn fun i => (out.getD (i.val / 4) 0).extractLsb' (24 - 8 * (i.val % 4)) 8

theorem aesInvSbox_aesSbox : ∀ x : Byte, aesInvSbox (aesSbox x) = x := by decide +kernel

theorem aesInvMix_aesMix :
    ∀ r c, gfDot (aesInvMix r) (fun k => aesMix k c) = if r = c then 1 else 0 := by decide +kernel

/-- TI-A. -/
def tiA : Params where
  sbox := aesSbox
  invSbox := aesInvSbox
  invSbox_sbox := aesInvSbox_aesSbox
  mix := aesMix
  invMix := aesInvMix
  invMix_mix := aesInvMix_aesMix
  h256 := sha256
  salt := [0x54, 0x49, 0x2d, 0x41, 0x2d, 0x53, 0x41, 0x4c, 0x54]
  memSize := 0x10000
  memSize_pos := by decide
  memSize_le := by decide

/-- The 16 bytes of a number written in hex, first byte first. -/
def hexBlock (n : Nat) : Block := Vector.ofFn fun i => BitVec.ofNat 8 (n / 256 ^ (15 - i.val))

/-- `n` bytes of a number written in hex, first byte first. -/
def hexBytes (n x : Nat) : Bytes := (List.range n).map fun i => BitVec.ofNat 8 (x / 256 ^ (n - 1 - i))

/-- `seq` of 95_test_vectors.md. -/
def seqBlock : Block := hexBlock 0x000102030405060708090a0b0c0d0e0f

/-- `K` of 95_test_vectors.md. -/
def keyK : Block := hexBlock 0x59001d51bda0ba5c1bfb5d5efe9f4b36

/-- `IVA` of 95_test_vectors.md. -/
def ivA : Block := hexBlock 0xa0a1a2a3a4a5a6a7a8a9aaabacadaeaf

end Sys2Proof.Tests
end

