-- ==== Sys2Proof/Tests/Slice0.lean ====
section
/-! SUPPORT. The model's own tests: the WellFormed smoke, the words of 95_test_vectors.md L2.0, its
vectors per command (those of the test instance TI-A against the functions, which take the parameters
as an argument), the register window of L2.10, and a witness for the hypotheses of every statement. -/

namespace Sys2Proof.Tests

open Sys2Proof.Machine Sys2Proof.Claims

set_option Elab.async false

/-! ## Helpers -/

/-- A step outcome that is a next state with property `p`. -/
def nextIs (o : Host.Outcome State Fault Refusal) (p : State → Bool) : Bool :=
  match o with
  | .next t => p t
  | .fault _ => false
  | .refused _ => false

/-- After reset with the turns `ts` to come. -/
def idleThen (ts : List Turn) : State := State.reset.setInbox ts

/-- After reset and the acceptance of `w`, with the turns `ts` to come. -/
def busyThen (w : Word) (ts : List Turn) : State := (State.reset.accept w).setInbox ts

/-- After reset with V0 = seq, and `b` in V1, V2 and V3. -/
def loadedV (b : Block) : State := { State.reset with v := #v[seqBlock, b, b, b] }

/-- A plain configuration that makes a CBC command cheap to evaluate: identity tables and matrices,
a digest of zeros, no salt, MEM_SIZE 0x10000. Not this hardware's. -/
def plainP : Params where
  memSize := 0x10000
  memSize_pos := by decide
  memSize_le := by decide

/-- SRC_ADDR, SRC_LEN, DST_ADDR and DST_CAP set after reset. -/
def withBuffers (a n d c : Word) : State :=
  { State.reset with srcAddr := a, srcLen := n, dstAddr := d, dstCap := c }

/-- A zero envelope at 0x2000 of `n` bytes but for byte 15, the last of its first block, which is 1. -/
def envelopeAt (n d c : Word) : State := { withBuffers 0x2000 n d c with mem := [(0x200F, 1)] }

/-! ## WellFormed: what each check refuses -/

theorem test_wf_n_refuses_vd : CmdClass.n.zeroFields (fieldsOf 0x00000130) = false := by decide
theorem test_wf_i2_refuses_vd : CmdClass.i2.zeroFields (fieldsOf 0x83570101) = false := by decide
theorem test_wf_i1_refuses_immB : CmdClass.i1.zeroFields (fieldsOf 0x01530002) = false := by decide
theorem test_wf_r2_refuses_immA : CmdClass.r2.zeroFields (fieldsOf 0x00010110) = false := by decide
theorem test_wf_r2i_refuses_rsv : CmdClass.r2i.zeroFields (fieldsOf 0x0000F01B) = false := by decide
theorem test_wf_r1i_refuses_vs : CmdClass.r1i.zeroFields (fieldsOf 0x0002071A) = false := by decide
theorem test_wf_refuses_v4 : (Operand.reg 4).wellFormed = false := by decide
theorem test_wf_refuses_imm256 : (Operand.imm 256).wellFormed = false := by decide
theorem test_wf_refuses_operand_of_n : CmdClass.n.operandShape [.imm 0] = false := by decide
theorem test_wf_refuses_register_for_immediate : CmdClass.i2.operandShape [.reg 0, .imm 1] = false := by decide
theorem test_wf_refuses_one_operand_more : CmdClass.i1.operandShape [.imm 0, .imm 1] = false := by decide
theorem test_wf_refuses_missing_source : CmdClass.r2.operandShape [.reg 0] = false := by decide
theorem test_wf_refuses_missing_round : CmdClass.r2i.operandShape [.reg 0, .reg 1] = false := by decide
theorem test_wf_refuses_second_register : CmdClass.r1i.operandShape [.reg 0, .reg 1, .imm 2] = false := by decide
theorem test_wf_refuses_clr_immediate : SourceLine.wellFormed ⟨.clr, [.imm 0]⟩ = false := by decide
theorem test_wf_refuses_whiten_two : SourceLine.wellFormed ⟨.whiten, [.reg 0, .reg 1]⟩ = false := by decide
theorem test_assemble_refuses_v4 : assemble ⟨.cmd .mov, [.reg 4, .reg 0]⟩ = none := by decide

/-! ## Decoding: the words of 95_test_vectors.md L2.0 -/

theorem test_decode_scalar :
    decode 0x00000000 = some .nop ∧ decode 0x00000001 = some (.gfmul 0 0) ∧
    decode 0x83570001 = some (.gfmul 0x57 0x83) ∧ decode 0x00530002 = some (.sbox 0x53) ∧
    decode 0x00ED0003 = some (.isbox 0xED) := by decide

/-- OP in bits 7..0, VD in 9..8, VS in 11..10, RSV in 15..12, IMMA in 23..16, IMMB in 31..24 (R81). -/
theorem test_decode_bits :
    decode 0b00000000000000000000011100010000 = some (.mov 3 1) ∧
    decode 0b00000000000000000000000100010001 = some (.sub 1 0) ∧
    decode 0b00000000000000000000010000010010 = some (.isub 0 1) ∧
    decode 0b00000000000000000000111000010011 = some (.rot 2 3) ∧
    decode 0b00000000000000000000100100010100 = some (.irot 1 2) ∧
    decode 0b00000000000000000000010100010101 = some (.mix 1 1) ∧
    decode 0b00000000000000000000001000010110 = some (.imix 2 0) ∧
    decode 0b00000000000000000000111100010111 = some (.xor 3 3) ∧
    decode 0b00000000000000000000010100011000 = some (.xkey 1 1) := by decide

theorem test_decode_round_forms :
    decode 0x00010B19 = some (.xrk 3 2 1) ∧ decode 0x0002031A = some (.rkey 3 2) ∧
    decode 0x00FF011B = some (.round 1 0 0xFF) ∧ decode 0x0002061C = some (.iround 2 1 2) ∧
    decode 0x00000120 = some (.encb 1 0) ∧ decode 0x00000621 = some (.decb 2 1) := by decide

theorem test_decode_messages :
    decode 0x00000030 = some .kdf ∧ decode 0x00000040 = some .cbcenc ∧
    decode 0x00000041 = some .cbcdec ∧ decode 0x00000042 = some .valid := by decide

theorem test_decode_illegal_fields :
    ([0x83570101, 0x00001001, 0x01530002, 0x00010110, 0x00001017, 0x01010B19, 0x0002071A, 0x0000F01B,
      0x00000130, 0x00010040, 0x80000041] : List Word).all (fun w => decode w == none) = true := by
  decide +kernel

theorem test_decode_unassigned :
    ([0x04, 0x0F, 0x1D, 0x1F, 0x22, 0x2F, 0x31, 0x3F, 0x43, 0xFF, 0xFFFFFFFF] : List Word).all
      (fun w => decode w == none) = true := by decide +kernel

/-- R88's example and the pseudo-instructions of R89. -/
theorem test_assemble :
    assemble ⟨.cmd .xrk, [.reg 3, .reg 2, .imm 1]⟩ = some 0x00010B19 ∧
    assemble ⟨.cmd .mov, [.reg 1, .reg 0]⟩ = some 0x00000110 ∧
    assemble ⟨.clr, [.reg 3]⟩ = some 0x00000F17 ∧ assemble ⟨.whiten, [.reg 1]⟩ = some 0x00000518 ∧
    assemble ⟨.cmd .gfmul, [.imm 0x57, .imm 0x83]⟩ = some 0x83570001 ∧
    assemble ⟨.cmd .rkey, [.reg 3, .imm 2]⟩ = some 0x0002031A := by decide

theorem test_decodeTableWord :
    decodeTableWord 32 0x83570001 = some (.gfmul 0x57 0x83) ∧ decodeTableWord 32 0x83570101 = none := by
  decide

/-- The word that `withFetchWord` places is the first command that runs after reset. -/
theorem test_withFetchWord :
    nextIs (step (State.reset.withFetchWord 32 0x83570001)) (fun t =>
      t.result == 0xC1 && t.done && t.cmd == 0x83570001 && t.pend == none && t.inbox == []) := by
  decide +kernel

/-! ## Commands -/

theorem test_nop : nextIs (exec .nop (busyThen 0 [])) (fun t => t.statusWord == 0x2 && t.errcode == .ok) := by
  decide +kernel

/-- L2.1. -/
theorem test_gfmul : gfmul 0x57 0x13 = 0xFE ∧ gfmul 0x80 0x02 = 0x1B ∧ gfmul 0xFF 0xFF = 0x13 ∧
    gfmul 0x80 0x80 = 0x9A ∧ gfmul 0x53 0xCA = 0x01 ∧ gfmul 0x00 0xA5 = 0 := by decide +kernel

theorem test_gfmul_command : nextIs (exec (.gfmul 0x83 0x57) (loadedV zeroBlock)) (fun t => t.result == 0xC1) := by
  decide +kernel

/-- L2.2. -/
theorem test_sbox : tiA.sbox 0x53 = 0xED ∧ tiA.sbox 0x1B = 0xAF ∧ tiA.sbox 0xFF = 0x16 := by decide +kernel

theorem test_isbox : tiA.invSbox 0xED = 0x53 ∧ tiA.invSbox 0x63 = 0x00 := by decide +kernel

theorem test_sub : subBlock tiA seqBlock = hexBlock 0x637c777bf26b6fc53001672bfed7ab76 := by decide +kernel

theorem test_isub : invSubBlock tiA seqBlock = hexBlock 0x52096ad53036a538bf40a39e81f3d7fb := by
  decide +kernel

/-- L2.3; the destination is VD, the source VS. -/
theorem test_rot : nextIs (exec (.rot 1 0) (loadedV zeroBlock)) (fun t =>
    t.v[1] == hexBlock 0x00010203050607040a0b08090f0c0d0e && t.v[0] == seqBlock) := by decide +kernel

theorem test_irot : nextIs (exec (.irot 1 0) (loadedV zeroBlock)) (fun t =>
    t.v[1] == hexBlock 0x00010203070405060a0b08090d0e0f0c && t.v[0] == seqBlock) := by decide +kernel

/-- L2.4. -/
theorem test_mix : mixBlock tiA (hexBlock 0xdbf201c6130a01c6532201c6455c01c6) =
    hexBlock 0x8e9f01c64ddc01c6a15801c6bc9d01c6 := by decide +kernel

theorem test_imix : invMixBlock tiA seqBlock = hexBlock 0x28292a2b3c3d3e3f2021222334353637 := by
  decide +kernel

/-- L2.5. -/
theorem test_mov : nextIs (exec (.mov 1 0) (loadedV zeroBlock)) (fun t =>
    t.v[1] == seqBlock && t.v[2] == zeroBlock && t.v[0] == seqBlock) := by decide +kernel

theorem test_xor : nextIs (exec (.xor 2 0) (loadedV (Vector.replicate 16 0xFF))) (fun t =>
    t.v[2] == hexBlock 0xfffefdfcfbfaf9f8f7f6f5f4f3f2f1f0 && t.v[0] == seqBlock) := by decide +kernel

theorem test_xor_same : nextIs (exec (.xor 0 0) (loadedV zeroBlock)) (fun t => t.v[0] == zeroBlock) := by
  decide +kernel

theorem test_xkey : nextIs (exec (.xkey 1 0) ((loadedV zeroBlock).setKey keyK)) (fun t =>
    t.v[1] == hexBlock 0x59011f52b9a5bc5b13f25755f2924539 && t.key == keyK) := by decide +kernel

theorem test_rkey : roundKey tiA keyK 2 = hexBlock 0x19035a95b238c6073040bb7302ab3f60 := by decide +kernel

/-- A round key is not limited to r < ROUNDS; XRK of a zero block is the round key. -/
theorem test_xrk : xorBlock zeroBlock (roundKey tiA keyK 255) = hexBlock 0x3981b24f9362bedcdda58e3aa5e46c9d := by
  decide +kernel

theorem test_round_last : roundBlock tiA seqBlock keyK 2 = hexBlock 0x7a7f2deed95703f5576b8b727455e8cb := by
  decide +kernel

theorem test_round_mixes : roundBlock tiA seqBlock keyK 3 = hexBlock 0xce3f2365c076cf0b23482dda1c486a61 := by
  decide +kernel

theorem test_iround_last : invRoundBlock tiA seqBlock keyK 2 = hexBlock 0x8e6a5e3552798b1f56c176a4c52e06d7 := by
  decide +kernel

theorem test_iround_mixes : invRoundBlock tiA seqBlock keyK 0 = hexBlock 0xcf9fa6285f4a4979e1fe14218bfeb30f := by
  decide +kernel

/-- L2.6: "user456" and "user123", in either order; a proper prefix is the smaller. -/
theorem test_kdf : deriveKey tiA [0x75, 0x73, 0x65, 0x72, 0x34, 0x35, 0x36]
    [0x75, 0x73, 0x65, 0x72, 0x31, 0x32, 0x33] = keyK := by decide +kernel

theorem test_kdf_prefix : deriveKey tiA [0x61, 0x62] [0x61] = hexBlock 0xe63e26b1dea5cf20e561a50a9853b400 := by
  decide +kernel

/-- L2.7. -/
theorem test_encb : encryptBlock tiA seqBlock keyK = hexBlock 0xc4305c9ec8696ffdca50f10ea645a8e4 := by
  decide +kernel

theorem test_decb : decryptBlock tiA seqBlock zeroBlock = hexBlock 0x45201f149276875bd20544df60fdcce8 := by
  decide +kernel

/-- L2.8, CBC-1: the envelope of the empty message. -/
theorem test_cbcenc : cbcEncrypt tiA [] keyK ivA =
    hexBytes 32 0xa0a1a2a3a4a5a6a7a8a9aaabacadaeaf53531b02bb4080d1e1551aea64d2d82d := by decide +kernel

/-- L2.8, PAD-16: only the last byte of the padding is looked at. -/
theorem test_cbcdec : cbcDecrypt tiA
    (hexBytes 32 0xa0a1a2a3a4a5a6a7a8a9aaabacadaeaf48000000000000000000000000000000) keyK = some [] := by
  decide +kernel

/-- L1.15. -/
theorem test_valid : nextIs (exec .valid (withBuffers 0 0xFFFFFFF0 0 0)) (fun t => t.result == 1) ∧
    nextIs (exec .valid ((withBuffers 0 17 0 0).setResult 7)) (fun t => t.result == 0 && t.errcode == .ok) := by
  decide +kernel

/-! ## Ranges and the priority of errors (L2.9) -/

theorem test_cbcenc_priority :
    cbcencCheck plainP (withBuffers 0xFFF0 47 0x2000 0) = .busError ∧
    cbcencCheck plainP (withBuffers 0x1000 47 0xFFFF 63) = .capacity ∧
    cbcencCheck plainP (withBuffers 0x1000 47 0xFFF0 64) = .busError ∧
    cbcencCheck plainP (withBuffers 0x1000 47 0x1020 64) = .overlap ∧
    cbcencCheck plainP (withBuffers 0x1000 47 0x102F 64) = .ok ∧
    cbcencCheck plainP (withBuffers 0xFFFFFFFF 0 0x2000 32) = .ok ∧
    cbcencCheck plainP (withBuffers 0x1000 47 0xFFC0 64) = .ok ∧
    cbcencCheck plainP (withBuffers 0xFFFFFFF0 0x20 0x2000 64) = .busError := by decide +kernel

theorem test_cbcdec_priority :
    (cbcdecUnder plainP (withBuffers 0xFFFF 17 0x3000 64)).errcode = .invalidLength ∧
    (cbcdecUnder plainP (withBuffers 0xFFE0 64 0x3000 64)).errcode = .busError ∧
    (cbcdecUnder plainP (withBuffers 0x2000 32 0x3000 0)).errcode = .invalidPadding ∧
    (cbcdecUnder plainP (envelopeAt 32 0xFFFF 14)).errcode = .capacity ∧
    (cbcdecUnder plainP (envelopeAt 32 0xFFFF 15)).errcode = .busError ∧
    (cbcdecUnder plainP (envelopeAt 32 0x201F 15)).errcode = .overlap ∧
    (cbcdecUnder plainP (envelopeAt 32 0x2020 15)).errcode = .ok := by decide +kernel

/-! ## The register window (L2.10) -/

/-- A host access and what its step must leave. -/
def hostGives (s : State) (a : HostAccess) (p : State → Bool) : Bool :=
  nextIs (step (s.setInbox [.host a])) p

theorem test_reset_reads :
    hostGives State.reset (.readReg 0x00 32) (fun t => t.resp == .word 0x01101003) ∧
    hostGives State.reset (.readReg 0x08 32) (fun t => t.resp == .word 0) ∧
    hostGives State.reset (.readReg 0x9C 32) (fun t => t.resp == .word 0) ∧
    hostGives State.reset (.readReg 0xA0 32) (fun t => t.resp == .word 0) := by decide +kernel

theorem test_lanes :
    hostGives State.reset (.writeReg 0x64 32 0x07060504) (fun t =>
      t.v[0] == hexBlock 0x00000000040506070000000000000000) ∧
    hostGives (loadedV zeroBlock) (.readReg 0x68 32) (fun t => t.resp == .word 0x0B0A0908) := by
  decide +kernel

theorem test_acceptance : hostGives State.reset (.writeReg 0x10 32 0xFFFFFFFF) (fun t =>
    t.statusWord == 0x1 && t.cmd == 0xFFFFFFFF) := by decide +kernel

theorem test_write_while_busy :
    hostGives (busyThen 0x120 []) (.writeReg 0x60 32 0xFFFFFFFF) (fun t =>
      t.statusWord == 0x9 && t.v[0] == zeroBlock) ∧
    hostGives (busyThen 0x120 []) (.writeReg 0x10 32 0) (fun t =>
      t.statusWord == 0x9 && t.cmd == 0x120) := by decide +kernel

theorem test_completion :
    nextIs (step (busyThen 0 [])) (fun t => t.statusWord == 0x2 && t.errcodeWord == 0) ∧
    nextIs (step (busyThen 0x83570101 [])) (fun t => t.statusWord == 0x6 && t.errcodeWord == 1) := by
  decide +kernel

/-- ERR is sticky: it stays through a success and goes when the host writes 4 to STATUS. -/
theorem test_err_sticky :
    nextIs (step ((State.reset.raise .overlap).accept 0)) (fun t => t.statusWord == 0x6 && t.errcodeWord == 0) ∧
    hostGives (State.reset.raise .overlap) (.writeReg 0x08 32 0x4) (fun t =>
      t.statusWord == 0x2 && t.errcodeWord == 7) := by decide +kernel

theorem test_irq :
    (({ State.reset with ie := true }).accept 0).irq = false ∧
    nextIs (step (({ State.reset with ie := true }).accept 0)) (fun t => t.irq) ∧
    hostGives ({ State.reset with ie := true }.complete) (.writeReg 0x08 32 0x2) (fun t => !t.irq) := by
  decide +kernel

theorem test_soft_reset_while_busy : hostGives (busyThen 0x220 []) (.writeReg 0x04 32 0x2) (fun t =>
    t.statusWord == 0 && t.cmd == 0 && t.pend == none) := by decide +kernel

theorem test_read_only_ignored : hostGives (busyThen 0 []) (.writeReg 0x50 32 0xFF) (fun t =>
    t.statusWord == 0x1 && t.iv == zeroBlock) := by decide +kernel

theorem test_bus_error :
    hostGives (loadedV zeroBlock) (.readReg 0x62 32) (fun t => t.resp == .busError (some 0)) ∧
    hostGives State.reset (.writeReg 0x60 16 0xFFFF) (fun t =>
      t.resp == .busError none && t.v[0] == zeroBlock) := by decide +kernel

/-! ## Memory (R61) and the buffer hazard (R298) -/

theorem test_memory_form :
    Memory.write (Memory.write [] 7 1) 3 2 = [(3, 2), (7, 1)] ∧ Memory.write [(3, 2), (7, 1)] 3 0 = [(7, 1)] ∧
    Memory.readBytes [(3, 2), (7, 1)] 6 3 = [0, 1, 0] := by decide

/-- The first byte of M exists whatever MEM_SIZE is. -/
theorem inRange_byte0 : InRange Config.params 0 1 := .inr Config.params.memSize_pos

/-- Nothing lies past 2^32. -/
theorem not_inRange_past (n : Nat) : ¬ InRange Config.params 0xFFFFFFFF (n + 2) := by
  have h := Config.params.memSize_le
  rintro (h' | h') <;> omega

/-- CBCENC is pending with a one-byte source at 0 and the host writes the byte 0 of M. -/
def hazardState : State :=
  { busyThen 0x40 [.host (.writeMem 0 [1])] with srcLen := 1, dstAddr := 0x10 }

theorem test_hazard : step hazardState = .fault .bufferHazard := by
  have h : ¬ ¬ InRange Config.params 0 ([1] : Bytes).length := not_not.2 inRange_byte0
  rw [step_turn (rest := []) (t := .host (.writeMem 0 [1])) rfl]
  change hostWriteMem Config.params 0 [1] _ = _
  rw [hostWriteMem, if_neg h, if_pos]
  decide +kernel

theorem test_no_hazard_when_idle : step (idleThen [.host (.writeMem 0 [1])]) =
    .next (({ State.reset with mem := [(0, 1)] }).respond .ack) := by
  have h : ¬ ¬ InRange Config.params 0 ([1] : Bytes).length := not_not.2 inRange_byte0
  rw [step_turn (rest := []) (t := .host (.writeMem 0 [1])) rfl]
  change hostWriteMem Config.params 0 [1] _ = _
  rw [hostWriteMem, if_neg h, if_neg (by decide +kernel)]
  rfl

/-- While CBCENC is pending the host reads byte 0 of M in its DST range (93 I10). -/
def readHazardState : State :=
  { busyThen 0x40 [.host (.readMem 0 1)] with srcAddr := 0x100, srcLen := 1 }

theorem test_read_hazard : step readHazardState = .fault .bufferHazard := by
  rw [step_turn (rest := []) (t := .host (.readMem 0 1)) rfl]
  change hostReadMem Config.params 0 1 _ = _
  rw [hostReadMem, if_neg (not_not.2 inRange_byte0), if_pos]
  decide +kernel

/-- A read of the SRC range of the pending CBCENC is no hazard. -/
theorem test_read_of_source : step { readHazardState with srcAddr := 0, dstAddr := 0x100, mem := [(0, 7)] } =
    .next { readHazardState with
      srcAddr := 0, dstAddr := 0x100, mem := [(0, 7)], inbox := [], resp := .bytes [7] } := by
  rw [step_turn (rest := []) (t := .host (.readMem 0 1)) rfl]
  change hostReadMem Config.params 0 1 _ = _
  rw [hostReadMem, if_neg (not_not.2 inRange_byte0), if_neg (by decide +kernel)]
  rfl

/-- Bytes past 2^32 are in no M. -/
theorem test_host_outside_M :
    step (idleThen [.host (.readMem 0xFFFFFFFF 2)]) = .refused .hostOutsideM ∧
    step (idleThen [.host (.writeMem 0xFFFFFFFF [1, 2])]) = .refused .hostOutsideM :=
  ⟨if_pos (not_inRange_past 0), if_pos (not_inRange_past 0)⟩

/-! ## Witnesses: states and operands that meet the hypotheses of the statements -/

theorem witness_DecodingIsUnambiguous :
    decode 0x00000F17 = some (.xor 3 3) ∧
    (⟨.nop, 0, 0xFFFFFFFF⟩ : Row) ∈ opcodeTable ∧ Row.selects ⟨.nop, 0, 0xFFFFFFFF⟩ 0 = true := by decide

/-- The ends of the unassigned ranges and a word of every class with a bit that must be 0. -/
theorem witness_IllegalWordRaisesIllegalCmd :
    (IllegalWord 0x04 ∧ IllegalWord 0x0F ∧ IllegalWord 0x1D ∧ IllegalWord 0x1F ∧ IllegalWord 0x22 ∧
      IllegalWord 0x2F ∧ IllegalWord 0x31 ∧ IllegalWord 0x3F ∧ IllegalWord 0x43 ∧ IllegalWord 0xFF) ∧
    (IllegalWord 0x83570101 ∧ IllegalWord 0x01530002 ∧ IllegalWord 0x00010110 ∧ IllegalWord 0x01010B19 ∧
      IllegalWord 0x0002071A ∧ IllegalWord 0x80000041) ∧
    (busyThen 0x04 [.core]).pend = some 0x04 ∧ (busyThen 0x04 [.core]).CoreHasTurn [] ∧
    (busyThen 0x04 []).CoreHasTurn [] := by
  refine ⟨?_, ?_, rfl, .inl rfl, .inr ⟨rfl, rfl⟩⟩
  · repeat' apply And.intro
    all_goals exact .inl (by unfold UnassignedOp; decide +kernel)
  · repeat' apply And.intro
    all_goals exact .inr (by unfold mustBeZero; decide +kernel)

theorem witness_AssembledLinesDecode :
    assemble ⟨.cmd .nop, []⟩ = some 0 ∧ Operand.reg 4 ∈ (SourceLine.mk (.cmd .mov) [.reg 4, .reg 0]).operands ∧
    Operand.imm 256 ∈ (SourceLine.mk (.cmd .sbox) [.imm 256]).operands := by decide

theorem witness_GfmulFieldLaws : (0x53 : Byte) ≠ 0 ∧ gfmul 0x53 0xCA = 1 := by decide +kernel

theorem witness_KdfCommand :
    ¬ InRange Config.params ({ State.reset with idaAddr := 0xFFFFFFFF, idaLen := 2 }).idaAddr.toNat
      ({ State.reset with idaAddr := 0xFFFFFFFF, idaLen := 2 }).idaLen.toNat ∧
    InRange Config.params ({ State.reset with idaLen := 1 }).idaAddr.toNat ({ State.reset with idaLen := 1 }).idaLen.toNat ∧
    InRange Config.params State.reset.idbAddr.toNat State.reset.idbLen.toNat :=
  ⟨not_inRange_past 0, inRange_byte0, .inl rfl⟩

theorem witness_PaddingAndUnpadding :
    16 ≤ (List.replicate 15 (0 : Byte) ++ [0]).length ∧ unpad (List.replicate 15 0 ++ [0]) = none ∧
    unpad (List.replicate 15 0 ++ [17]) = none ∧ unpad (List.replicate 15 0 ++ [16]) = some [] ∧
    unpad (List.replicate 15 0 ++ [1]) = some (List.replicate 15 0) := by decide +kernel

theorem witness_CbcChaining :
    (0 : Nat) < ([] : Bytes).length / 16 + 1 ∧ 32 ≤ (List.replicate 32 (0 : Byte)).length ∧
    (List.replicate 32 (0 : Byte)).length % 16 = 0 ∧ 0 < (List.replicate 32 (0 : Byte)).length / 16 - 1 := by decide

/-- CBCENC at the edges: ranges that touch, a destination that ends at MEM_SIZE, an empty source. -/
theorem witness_CbcencCompletes :
    ∀ s ∈ [{ withBuffers 0x1000 47 0x102F 64 with entropy := [some ivA] },
      { withBuffers 0x1000 47 0xFFC0 64 with entropy := [some ivA] },
      { withBuffers 0xFFFFFFFF 0 0x2000 32 with entropy := [some ivA] }],
      s.mem.wf ∧ CbcencAccepts plainP s ∧ s.nextDraw = some ivA := by
  unfold CbcencAccepts; decide +kernel

theorem witness_CbcdecCompletes :
    (envelopeAt 32 0x2020 15).mem.wf ∧ CbcdecAccepts plainP (envelopeAt 32 0x2020 15) (List.replicate 15 0) := by
  unfold CbcdecAccepts; decide +kernel

theorem witness_ValidCommand :
    (32 ≤ (withBuffers 0 32 0 0).srcLen.toNat ∧ (withBuffers 0 32 0 0).srcLen.toNat % 16 = 0) ∧
    ¬ (32 ≤ (withBuffers 0 31 0 0).srcLen.toNat ∧ (withBuffers 0 31 0 0).srcLen.toNat % 16 = 0) ∧
    ¬ (32 ≤ (withBuffers 0 16 0 0).srcLen.toNat ∧ (withBuffers 0 16 0 0).srcLen.toNat % 16 = 0) := by decide

/-- One state for every clause of CBCENC: the four checks at their edges, and the draw that fails. -/
theorem witness_FirstFailingCheckIsReported_cbcenc :
    ¬ InRange plainP (withBuffers 0xFFF0 17 0 0).srcAddr.toNat 17 ∧
    (InRange plainP 0x1000 47 ∧ (withBuffers 0x1000 47 0xFFFF 63).dstCap.toNat < 64) ∧
    (64 ≤ (withBuffers 0x1000 47 0xFFC1 64).dstCap.toNat ∧ ¬ InRange plainP 0xFFC1 64) ∧
    (InRange plainP 0x102E 64 ∧ Overlap 0x1000 47 0x102E 64) ∧
    CbcencAccepts plainP { withBuffers 0x1000 47 0x2000 64 with entropy := [none] } ∧
    ({ withBuffers 0x1000 47 0x2000 64 with entropy := [none] } : State).nextDraw = none := by
  unfold CbcencAccepts; decide +kernel

/-- One state for every clause of CBCDEC and of the other two commands that can fail. -/
theorem witness_FirstFailingCheckIsReported_rest :
    (withBuffers 0 31 0 0).srcLen.toNat < 32 ∧ (withBuffers 0 33 0 0).srcLen.toNat % 16 ≠ 0 ∧
    (32 ≤ (withBuffers 0xFFE1 32 0 0).srcLen.toNat ∧ ¬ InRange plainP 0xFFE1 32) ∧
    cbcDecrypt plainP (List.replicate 32 0) zeroBlock = none ∧
    (cbcDecrypt plainP ((envelopeAt 32 0 14).mem.readBytes 0x2000 32) zeroBlock = some (List.replicate 15 0) ∧
      (envelopeAt 32 0 14).dstCap.toNat < 15 ∧ ¬ InRange plainP 0xFFF2 15 ∧
      InRange plainP 0x201F 15 ∧ Overlap 0x2000 32 0x201F 15) ∧
    ¬ InRange Config.params 0xFFFFFFFF 2 ∧ decode 0x04 = none ∧ (busyThen 0x04 []).CoreHasTurn [] :=
  ⟨by decide, by decide, by decide +kernel, by decide +kernel, by decide +kernel, not_inRange_past 0,
    by decide, .inr ⟨rfl, rfl⟩⟩

/-- CBCENC of one byte at 0 to 0x100, then CBCDEC of its envelope to 0x200. -/
def encState : State := { withBuffers 0 1 0x100 32 with mem := [(0, 0x41)], entropy := [some ivA] }

/-- The state after CBCENC with the buffers of the decryption. -/
def decState : State :=
  { cbcencUnder plainP encState with srcAddr := 0x100, srcLen := 32, dstAddr := 0x200, dstCap := 1 }

theorem witness_StoredEnvelopeDecryptsBack :
    encState.mem.wf ∧ (cbcencUnder plainP encState).errcode = .ok ∧
    decState.mem = (cbcencUnder plainP encState).mem ∧ decState.key = (cbcencUnder plainP encState).key ∧
    decState.srcAddr = encState.dstAddr ∧ decState.srcLen = (cbcencUnder plainP encState).result ∧
    ([0x41] : Bytes) = encState.mem.readBytes 0 1 ∧ 1 ≤ decState.dstCap.toNat ∧ InRange plainP 0x200 1 ∧
    ¬ Overlap 0x100 32 0x200 1 := by decide +kernel

/-- A 48-byte envelope: its IV, its middle and its last block changed. -/
theorem witness_ErrorPropagation : ∀ i ∈ [0, 1, 2],
    32 ≤ (List.replicate 48 (0 : Byte)).length ∧ (List.replicate 48 (0 : Byte)).length % 16 = 0 ∧
    i < (List.replicate 48 (0 : Byte)).length / 16 ∧ 15 < 16 := by decide

theorem witness_core_turns :
    (∀ ts ∈ [[], [Turn.core]], (busyThen 0x41 ts).pend = some 0x41 ∧ (busyThen 0x41 ts).CoreHasTurn []) ∧
    nextIs (step (busyThen 0x41 [])) (fun t => t.errcode == .invalidLength) ∧
    nextIs (step (busyThen 0 [])) (fun t => t.errcode == .ok) ∧
    State.reset.pend = none ∧ State.reset.CoreHasTurn [] := by
  unfold State.CoreHasTurn; decide +kernel

/-- AllOrNothing and CodesOfEachCommand: an error and a success of `exec`. -/
theorem witness_exec_outcomes :
    State.reset.mem.wf ∧ nextIs (exec .cbcdec State.reset) (fun t => t.errcode == .invalidLength) ∧
    nextIs (exec .cbcenc State.reset) (fun t => t.errcode == .capacity) ∧
    nextIs (exec .kdf State.reset) (fun t => t.errcode == .ok) ∧
    nextIs (exec .nop State.reset) (fun t => t.errcode == .ok) := by decide +kernel

theorem witness_OneDrawPerCbcenc :
    CbcencAccepts plainP encState ∧ ¬ CbcencAccepts plainP State.reset ∧
    (cbcencUnder plainP { encState with entropy := [none] }).errcode = .entropyError ∧
    nextIs (exec .valid State.reset) (fun t => t.errcode == .ok) := by
  unfold CbcencAccepts; decide +kernel

/-- Two memories that differ at 0x3000 only, outside the source and where CBCENC and CBCDEC store. -/
theorem witness_CommandsReadOnlyTheirRanges :
    (envelopeAt 32 0x3000 15).mem.wf ∧ Memory.wf [(0x200F, 1), (0x3000, 7)] ∧
    (∀ a, InsideRange (0x2000, 32) a → Memory.read [(0x200F, 1), (0x3000, 7)] a = Memory.read [(0x200F, 1)] a) ∧
    (cbcdecUnder plainP (envelopeAt 32 0x3000 15)).errcode = .ok ∧
    (cbcencUnder plainP { envelopeAt 32 0x3000 64 with entropy := [some ivA] }).errcode = .ok ∧
    nextIs (exec .valid (envelopeAt 32 0x3000 15)) (fun t => t.result == 1) := by
  refine ⟨by decide +kernel, by decide +kernel, ?_, by decide +kernel⟩
  intro a h
  have h2 : ¬ 0x3000 = a := by have := h.2; simp only at this; omega
  simp only [Memory.read, if_neg h2]

theorem witness_StepRunsDecodedInstruction :
    (busyThen 0x30 [.core, .hardReset]).CoreHasTurn [.hardReset] ∧
    (busyThen 0x30 [.core, .hardReset]).pend = some 0x30 ∧ decode 0x30 = some .kdf :=
  ⟨.inl rfl, rfl, by decide⟩

/-- The invariant with a command pending, and a step from there. -/
theorem witness_InvariantKeptByEveryStep :
    (busyThen 0 [.core]).Inv ∧ nextIs (step (busyThen 0 [.core])) (fun t => t.done) = true :=
  ⟨⟨by decide, by simp [busyThen, State.accept, State.setInbox, State.reset],
    by simp [busyThen, State.accept, State.setInbox], by decide⟩, by decide +kernel⟩

/-- KEY by a lane write; KEY and IV by a hard reset; KEY by KDF is `witness_exec_outcomes`. -/
theorem witness_WritersOfKeyAndIv :
    nextIs (step (idleThen [.host (.writeReg 0x4C 32 1)])) (fun t => t.key != State.reset.key) ∧
    nextIs (step ((({ State.reset with iv := ivA }).setKey keyK).setInbox [.hardReset]))
      (fun t => t.key != keyK && t.iv != ivA) ∧
    nextIs (step (({ State.reset with iv := ivA }).setInbox [.host (.writeReg 0x04 32 2)]))
      (fun t => t.iv != ivA) := by decide +kernel

theorem witness_WritersOfMemory :
    (idleThen [.host (.writeMem 0 [1])]).mem.wf ∧
    ({ State.reset with mem := [(0, 1)] } : State).mem.read 0 ≠ (idleThen [.host (.writeMem 0 [1])]).mem.read 0 := by
  decide

theorem witness_MemoryReadAfterWrite :
    Memory.wf [] ∧ Memory.wf [(0, 1), (5, 2)] ∧ (0 < 1 ∨ 1 + 2 ≤ 0) ∧ (3 < 1 ∨ 1 + 2 ≤ 3) := by decide

theorem witness_MemoryFormIsCanonical :
    Memory.wf [(2, 1)] ∧ Memory.wf (Memory.write (Memory.write [] 2 1) 3 0) ∧
    ∀ a, Memory.read [(2, 1)] a = Memory.read (Memory.write (Memory.write [] 2 1) 3 0) a :=
  ⟨by decide, by decide, fun _ => rfl⟩

theorem witness_CommandAcceptance :
    (idleThen [.host (.writeReg 0x10 32 0x30)]).pend = none ∧
    (busyThen 0 [.host (.writeReg 0x10 32 0x30)]).pend ≠ none ∧
    (idleThen [.host (.readReg 0x10 32)]).inbox = [.host (.readReg 0x10 32)] := by decide

/-- WritesWhileBusy: every clause, at the ends of the offset ranges. -/
theorem witness_WritesWhileBusy :
    ∀ o ∈ ([0x10, 0x18, 0x34, 0x40, 0x4C, 0x60, 0x9C, 0x04, 0x08] : List (BitVec 8)),
      (busyThen 0 [.host (.writeReg o 32 2)]).pend ≠ none ∧ o.toNat % 4 = 0 ∧
      (o = 0x10 ∨ (0x18 ≤ o.toNat ∧ o.toNat ≤ 0x34) ∨ (0x40 ≤ o.toNat ∧ o.toNat ≤ 0x4C) ∨
        (0x60 ≤ o.toNat ∧ o.toNat ≤ 0x9C) ∨ o = 0x04 ∨ o = 0x08) ∧
      (2 : Word).getLsbD 1 = true ∧ (1 : Word).getLsbD 1 = false := by decide +kernel

/-- The window as it is read and written while idle, at the ends of the ranges of offsets. -/
theorem witness_window_accesses :
    ∀ o ∈ ([0x00, 0x04, 0x08, 0x0C, 0x10, 0x18, 0x34, 0x38, 0x3C, 0x40, 0x4C, 0x50, 0x5C, 0x60, 0x9C, 0xA0, 0xFC] :
        List (BitVec 8)),
      (idleThen [.host (.readReg o 32)]).inbox = [.host (.readReg o 32)] ∧ o.toNat % 4 = 0 ∧
      (idleThen [.host (.writeReg o 32 1)]).pend = none := by decide +kernel

/-- ReservedAndReadOnly and ControlAndStatusRegisters: nothing changes but the answer; IE and the reset. -/
theorem witness_reserved_and_control :
    (∀ o ∈ ([0x00, 0x0C, 0x14, 0x50, 0x5C, 0x38, 0x3C, 0xA0, 0xFC] : List (BitVec 8)),
      hostGives (loadedV zeroBlock) (.writeReg o 32 0xFFFFFFFF) (fun t =>
        t == (loadedV zeroBlock).respond .ack) = true) ∧
    hostGives State.reset (.writeReg 0x04 32 0xFFFFFFFD) (fun t => t.ctrlWord == 1) ∧
    hostGives (loadedV zeroBlock) (.writeReg 0x04 32 0x3) (fun t => t == State.reset.respond .ack) := by
  decide +kernel

/-- BusErrorAccesses: other widths and offsets, and the access that is served. -/
theorem witness_BusErrorAccesses :
    ((8 : Nat) ≠ 32 ∨ (0x08 : BitVec 8).toNat % 4 ≠ 0) ∧ ((64 : Nat) ≠ 32 ∨ (0x08 : BitVec 8).toNat % 4 ≠ 0) ∧
    ((32 : Nat) ≠ 32 ∨ (0x01 : BitVec 8).toNat % 4 ≠ 0) ∧ ((32 : Nat) ≠ 32 ∨ (0xFF : BitVec 8).toNat % 4 ≠ 0) ∧
    (0xFC : BitVec 8).toNat % 4 = 0 := by decide

theorem witness_ResetValues :
    ((busyThen 0x30 []).setInbox [.hardReset]).inbox = [.hardReset] ∧
    ((busyThen 0x30 []).setInbox [.host (.writeReg 0x04 32 2)]).inbox = [.host (.writeReg 0x04 32 2)] ∧
    (2 : Word).getLsbD 1 = true := by decide

theorem witness_InterruptLine :
    ({ State.reset with ie := true }.complete).irq = true ∧ (busyThen 0 [.core]).CoreHasTurn [] ∧
    nextIs (step (busyThen 0 [.core])) (fun t => t.irq == false) ∧
    hostGives ({ State.reset with ie := true }.complete) (.writeReg 0x10 32 0) (fun t => !t.irq) ∧
    hostGives ({ State.reset with ie := true }.complete) (.writeReg 0x08 32 2) (fun t => !t.irq) := by
  exact ⟨by decide +kernel, .inl rfl, by decide +kernel⟩

/-- BufferHazard: byte 0 of M in each range of each pending command, next to each, and with NOP pending. -/
theorem witness_BufferHazard :
    InRange Config.params 0 ([1] : Bytes).length ∧ decode 0x30 = some .kdf ∧ decode 0x40 = some .cbcenc ∧
    decode 0x41 = some .cbcdec ∧ hazardState.pend = some 0x40 ∧ readHazardState.pend = some 0x40 ∧
    Overlap 0 1 ({ State.reset with idaLen := 1 }).idaAddr.toNat ({ State.reset with idaLen := 1 }).idaLen.toNat ∧
    Overlap 0 1 hazardState.srcAddr.toNat hazardState.srcLen.toNat ∧
    Overlap 0 1 (withBuffers 5 0 0 0).dstAddr.toNat (16 * ((withBuffers 5 0 0 0).srcLen.toNat / 16 + 2)) ∧
    Overlap 0 1 (withBuffers 5 18 0 1).dstAddr.toNat (min 1 ((withBuffers 5 18 0 1).srcLen.toNat - 17)) ∧
    ¬ Overlap 0 1 (withBuffers 1 1 0 0).srcAddr.toNat 1 ∧
    writeRanges .cbcdec (withBuffers 5 17 0 1) = [(0, 0)] ∧ ¬ Overlap 0 1 0 0 ∧
    usedRanges .nop State.reset = [] :=
  ⟨inRange_byte0, by decide +kernel⟩

/-- HostMemoryAccessWithNothingInUse: idle, and with an illegal word pending. -/
theorem witness_HostMemoryAccessWithNothingInUse :
    InRange Config.params 0 1 ∧ (idleThen [.host (.readMem 0 1)]).pend = none ∧
    (busyThen 0x04 [.host (.writeMem 0 [1])]).pend = some 0x04 ∧ decode 0x04 = none :=
  ⟨inRange_byte0, rfl, rfl, by decide⟩

end Sys2Proof.Tests
end

section
/-! PROOFS. The register window as a map from offsets to registers (10_state.md R22), and what one
host access to it does to the state. -/

namespace Sys2Proof.Machine

/-- The byte offset of a register in the window (R22); `reserved` stands for many offsets and has none. -/
def WinReg.offset : WinReg → Nat
  | .id => 0x00
  | .ctrl => 0x04
  | .status => 0x08
  | .errcode => 0x0C
  | .cmd => 0x10
  | .result => 0x14
  | .srcAddr => 0x18
  | .srcLen => 0x1C
  | .dstAddr => 0x20
  | .dstCap => 0x24
  | .idaAddr => 0x28
  | .idaLen => 0x2C
  | .idbAddr => 0x30
  | .idbLen => 0x34
  | .key w => 0x40 + 4 * w.val
  | .iv w => 0x50 + 4 * w.val
  | .v n w => 0x60 + 16 * n.val + 4 * w.val
  | .reserved => 0x100

/-- Registers on which a host write has no effect (R36). -/
def WinReg.readOnly : WinReg → Bool
  | .id | .errcode | .result | .iv _ | .reserved => true
  | .ctrl | .status | .cmd | .srcAddr | .srcLen | .dstAddr | .dstCap | .idaAddr | .idaLen
  | .idbAddr | .idbLen | .key _ | .v _ _ => false

/-- Registers that a host write reaches only while idle (R37). -/
def WinReg.idleOnly : WinReg → Bool
  | .cmd | .srcAddr | .srcLen | .dstAddr | .dstCap | .idaAddr | .idaLen | .idbAddr | .idbLen
  | .key _ | .v _ _ => true
  | .id | .ctrl | .status | .errcode | .result | .iv _ | .reserved => false

/-- Each register stands at its own offset. -/
theorem winRegAt_offset (r : WinReg) (hr : r ≠ .reserved) : winRegAt (r.offset / 4) = r := by
  cases r with
  | key w => revert w; decide
  | iv w => revert w; decide
  | v n w => revert n w; decide
  | reserved => contradiction
  | _ => rfl

theorem winRegOf_of_offset {r : WinReg} {o : BitVec 8} (hr : r ≠ .reserved) (ho : o.toNat = r.offset) :
    winRegOf o = r := by
  rw [winRegOf, ho, winRegAt_offset r hr]

/-- Every register stands at a multiple of 4, as R64 asks of an access. -/
theorem WinReg.offset_aligned (r : WinReg) : r.offset % 4 = 0 := by
  cases r <;> simp only [WinReg.offset] <;> omega

theorem toNat_eq_offset : ∀ o : BitVec 8, o.toNat % 4 = 0 → winRegOf o ≠ .reserved →
    o.toNat = (winRegOf o).offset := by decide +kernel

/-- A register is found at no other offset than its own. -/
theorem toNat_of_winRegOf {o : BitVec 8} {r : WinReg} (ho : o.toNat % 4 = 0) (h : winRegOf o = r)
    (hr : r ≠ .reserved) : o.toNat = r.offset :=
  h ▸ toNat_eq_offset o ho (h ▸ hr)

theorem winRegOf_reserved : ∀ o : BitVec 8, o = 0x38 ∨ o = 0x3C ∨ 0xA0 ≤ o.toNat →
    winRegOf o = .reserved := by decide +kernel

theorem winRegOf_readOnly : ∀ o : BitVec 8, o.toNat % 4 = 0 →
    (o = 0x00 ∨ o = 0x0C ∨ o = 0x14 ∨ (0x50 ≤ o.toNat ∧ o.toNat ≤ 0x5C) ∨ o = 0x38 ∨ o = 0x3C ∨
      0xA0 ≤ o.toNat) → (winRegOf o).readOnly = true := by decide +kernel

theorem winRegOf_idleOnly : ∀ o : BitVec 8, o.toNat % 4 = 0 →
    (o = 0x10 ∨ (0x18 ≤ o.toNat ∧ o.toNat ≤ 0x34) ∨ (0x40 ≤ o.toNat ∧ o.toNat ≤ 0x4C) ∨
      (0x60 ≤ o.toNat ∧ o.toNat ≤ 0x9C)) → (winRegOf o).idleOnly = true := by decide +kernel

theorem State.unlessBusy_of_idle {s : State} (h : s.pend = none) (t : State) : s.unlessBusy t = t := by
  simp [State.unlessBusy, State.busy, h]

theorem State.unlessBusy_of_busy {s : State} (h : s.pend ≠ none) (t : State) :
    s.unlessBusy t = s.setIgn := by
  simp [State.unlessBusy, State.busy, Option.isSome_iff_ne_none.2 h]

theorem State.writeWin_readOnly {r : WinReg} (h : r.readOnly = true) (s : State) (x : Word) :
    s.writeWin r x = s := by
  cases r with
  | id | errcode | result | iv | reserved => rfl
  | _ => contradiction

theorem State.writeWin_busy {s : State} {r : WinReg} (hp : s.pend ≠ none) (h : r.idleOnly = true)
    (x : Word) : s.writeWin r x = s.setIgn := by
  cases r with
  | id | ctrl | status | errcode | result | iv | reserved => contradiction
  | _ => exact State.unlessBusy_of_busy hp _

theorem State.writeCtrl_reset {x : Word} (h : x.getLsbD 1 = true) (s : State) :
    s.writeCtrl x = s.resetRegisters := if_pos h

theorem State.writeCtrl_ie {x : Word} (h : x.getLsbD 1 = false) (s : State) :
    s.writeCtrl x = { s with ie := x.getLsbD 0 } := if_neg (Bool.eq_false_iff.1 h)

/-- No register of the window shows the turns to come. -/
theorem State.readWin_setInbox (s : State) (ts : List Turn) (r : WinReg) :
    (s.setInbox ts).readWin r = s.readWin r := by
  cases r <;> rfl

theorem State.readWin_at (s : State) {o : BitVec 8} (r : WinReg) (hr : r ≠ .reserved)
    (ho : o.toNat = r.offset) : s.readWin (winRegOf o) = s.readWin r := by
  rw [winRegOf_of_offset hr ho]

/-- Bit `k` of CTRL as read (R24). -/
theorem State.ctrlWord_getLsbD (s : State) (k : Nat) :
    s.ctrlWord.getLsbD k = (decide (k = 0) && s.ie) := by
  cases h : s.ie <;> simp [State.ctrlWord, h]

/-- The bits of STATUS as read (R25). -/
theorem State.statusWord_bits (s : State) :
    s.statusWord.getLsbD 0 = s.pend.isSome ∧ s.statusWord.getLsbD 1 = s.done ∧
      s.statusWord.getLsbD 2 = s.err ∧ s.statusWord.getLsbD 3 = s.ign ∧
      ∀ k, 4 ≤ k → s.statusWord.getLsbD k = false := by
  simp only [State.statusWord, BitVec.getLsbD_append, BitVec.getLsbD_ofBool, State.busy]
  refine ⟨by simp, by simp, by simp, by simp, fun k hk => ?_⟩
  simp [show ¬ k < 1 by omega, show ¬ k - 1 < 1 by omega, show ¬ k - 1 - 1 < 1 by omega,
    show ¬ k - 1 - 1 - 1 < 1 by omega]

/-- Words that agree under a mask agree at each of its bits. -/
theorem getLsbD_eq_of_and_eq {x y m : Word} (h : x &&& m = y &&& m) {k : Nat} (hk : m.getLsbD k = true) :
    x.getLsbD k = y.getLsbD k := by
  have hb := congrArg (fun z : Word => z.getLsbD k) h
  simpa only [BitVec.getLsbD_and, hk, Bool.and_true] using hb

/-- Bits 2 to 31 of a write to CTRL do not matter (R36). -/
theorem State.writeCtrl_congr {x y : Word} (h : x &&& 0x3 = y &&& 0x3) (s : State) :
    s.writeCtrl x = s.writeCtrl y := by
  unfold State.writeCtrl
  rw [getLsbD_eq_of_and_eq h (k := 0) rfl, getLsbD_eq_of_and_eq h (k := 1) rfl]

/-- Bits 0 and 4 to 31 of a write to STATUS do not matter (R36). -/
theorem State.writeStatus_congr {x y : Word} (h : x &&& 0xE = y &&& 0xE) (s : State) :
    s.writeStatus x = s.writeStatus y := by
  unfold State.writeStatus
  rw [getLsbD_eq_of_and_eq h (k := 1) rfl, getLsbD_eq_of_and_eq h (k := 2) rfl,
    getLsbD_eq_of_and_eq h (k := 3) rfl]

/-- The reserved bits of CTRL, STATUS and ERRCODE read 0 (R24, R25, R27). -/
theorem State.reservedBits_zero (s : State) :
    s.ctrlWord &&& 0xFFFFFFFE = 0 ∧ s.statusWord &&& 0xFFFFFFF0 = 0 ∧ s.errcodeWord &&& 0xFFFFFFF0 = 0 := by
  refine ⟨?_, ?_, ?_⟩
  · cases h : s.ie <;> simp [State.ctrlWord, h]
  · have hbits : ∀ i e d b : Bool, ((0 : BitVec 28) ++ BitVec.ofBool i ++ BitVec.ofBool e ++ BitVec.ofBool d ++
        BitVec.ofBool b : Word) &&& 0xFFFFFFF0 = 0 := by decide
    exact hbits _ _ _ _
  · cases h : s.errcode <;> simp [State.errcodeWord, Code.toNat, h]

/-- A served host write of the window (R64): the register's write, and the answer. -/
theorem step_writeReg {s : State} {o : BitVec 8} {x : Word} {ts : List Turn}
    (hin : s.inbox = .host (.writeReg o 32 x) :: ts) (ho : o.toNat % 4 = 0) :
    step s = .next (((s.setInbox ts).writeWin (winRegOf o) x).respond .ack) := by
  rw [step_turn hin]
  exact congrArg _ (if_pos ⟨rfl, ho⟩)

/-- A served host read of the window (R64, R68): the register's word as it stands, nothing else. -/
theorem step_readReg {s : State} {o : BitVec 8} {ts : List Turn}
    (hin : s.inbox = .host (.readReg o 32) :: ts) (ho : o.toNat % 4 = 0) :
    step s = .next { s with inbox := ts, resp := .word (s.readWin (winRegOf o)) } := by
  rw [step_turn hin, ← State.readWin_setInbox s ts]
  exact congrArg _ (if_pos ⟨rfl, ho⟩)

/-- The host write at the offset of a register. -/
theorem step_writeReg_at {s : State} {o : BitVec 8} {x : Word} {ts : List Turn} {r : WinReg}
    (hin : s.inbox = .host (.writeReg o 32 x) :: ts) (hr : r ≠ .reserved) (ho : o.toNat = r.offset) :
    step s = .next (((s.setInbox ts).writeWin r x).respond .ack) := by
  rw [step_writeReg hin (ho ▸ r.offset_aligned), winRegOf_of_offset hr ho]

/-- The host write, while idle, at the offset of a register that busy protects. -/
theorem step_writeReg_idle {s t : State} {o : BitVec 8} {x : Word} {ts : List Turn} (r : WinReg)
    (hin : s.inbox = .host (.writeReg o 32 x) :: ts) (hp : s.pend = none) (hr : r ≠ .reserved)
    (hw : (s.setInbox ts).writeWin r x = (s.setInbox ts).unlessBusy t) (ho : o.toNat = r.offset) :
    step s = .next (t.respond .ack) := by
  rw [step_writeReg_at hin hr ho, hw, State.unlessBusy_of_idle (s := s.setInbox ts) hp]

/-- The host write of CTRL with bit 1 set: the soft reset (R24, R291). -/
theorem step_writeCtrl_reset {s : State} {x : Word} {ts : List Turn}
    (hin : s.inbox = .host (.writeReg 0x04 32 x) :: ts) (hx : x.getLsbD 1 = true) :
    step s = .next { State.reset with
      mem := s.mem, entropy := s.entropy, draws := s.draws, inbox := ts, resp := .ack } := by
  rw [step_writeReg_at (r := .ctrl) hin nofun rfl]
  exact congrArg (fun t : State => Host.Outcome.next (t.respond .ack)) (State.writeCtrl_reset hx _)

/-- The host write of CTRL with bit 1 clear (R24). -/
theorem step_writeCtrl_ie {s : State} {x : Word} {ts : List Turn}
    (hin : s.inbox = .host (.writeReg 0x04 32 x) :: ts) (hx : x.getLsbD 1 = false) :
    step s = .next { s with inbox := ts, resp := .ack, ie := x.getLsbD 0 } := by
  rw [step_writeReg_at (r := .ctrl) hin nofun rfl]
  exact congrArg (fun t : State => Host.Outcome.next (t.respond .ack)) (State.writeCtrl_ie hx _)

/-- The host write of STATUS (R25). -/
theorem step_writeStatus {s : State} {x : Word} {ts : List Turn}
    (hin : s.inbox = .host (.writeReg 0x08 32 x) :: ts) :
    step s = .next { s with
      inbox := ts, resp := .ack, done := s.done && !x.getLsbD 1, err := s.err && !x.getLsbD 2,
      ign := s.ign && !x.getLsbD 3 } :=
  step_writeReg_at (r := .status) hin nofun rfl

/-- The host write of CMD while idle (R28). -/
theorem step_writeCmd_idle {s : State} {x : Word} {ts : List Turn}
    (hin : s.inbox = .host (.writeReg 0x10 32 x) :: ts) (hp : s.pend = none) :
    step s = .next { s with inbox := ts, resp := .ack, cmd := x, pend := some x, done := false } :=
  step_writeReg_idle .cmd hin hp nofun rfl rfl

/-- A write that BUSY = 1 turns away only sets IGN (R37). -/
theorem step_writeReg_busy {s : State} {o : BitVec 8} {x : Word} {ts : List Turn}
    (hin : s.inbox = .host (.writeReg o 32 x) :: ts) (ho : o.toNat % 4 = 0) (hp : s.pend ≠ none)
    (hr : (winRegOf o).idleOnly = true) :
    step s = .next { s with inbox := ts, resp := .ack, ign := true } := by
  rw [step_writeReg hin ho, State.writeWin_busy (s := s.setInbox ts) hp hr]
  rfl

end Sys2Proof.Machine
end

section
/-! PROOFS. The lanes of a 16-byte register (10_state.md R35). -/

namespace Sys2Proof.Machine

/-- Four bytes one above the other are their little-endian sum. -/
theorem append_bytes_eq_or (b0 b1 b2 b3 : Byte) :
    b3 ++ b2 ++ b1 ++ b0 = (b0.setWidth 32 ||| (b1.setWidth 32 <<< 8) ||| (b2.setWidth 32 <<< 16) |||
      (b3.setWidth 32 <<< 24) : Word) := by
  have h := BitVec.setWidth_append_append_append_eq_shiftLeft_setWidth_or (b := b3) (b' := b2) (b'' := b1)
    (b''' := b0) (w'''' := 32)
  simp only [BitVec.setWidth_eq, Nat.reduceAdd] at h
  rw [h]
  generalize b3.setWidth 32 <<< 24 = x3, b2.setWidth 32 <<< 16 = x2, b1.setWidth 32 <<< 8 = x1,
    b0.setWidth 32 = x0
  ac_rfl

/-- A word is its four bytes. -/
theorem append_extractLsb'_bytes (x : Word) :
    x.extractLsb' 24 8 ++ x.extractLsb' 16 8 ++ x.extractLsb' 8 8 ++ x.extractLsb' 0 8 = x := by
  rw [BitVec.extractLsb'_append_extractLsb'_eq_extractLsb' (start₂ := 24) (start₁ := 16) rfl,
    BitVec.extractLsb'_append_extractLsb'_eq_extractLsb' (start₂ := 16) (start₁ := 8) rfl,
    BitVec.extractLsb'_append_extractLsb'_eq_extractLsb' (start₂ := 8) (start₁ := 0) rfl]
  exact BitVec.extractLsb'_eq_self

/-- Byte `k` of the lane that was written (R35). -/
theorem setLane_get_same (b : Block) (w : Fin 4) (x : Word) (k : Nat) (hk : k < 4) :
    (setLane b w x)[4 * w.val + k] = x.extractLsb' (8 * k) 8 := by
  rw [setLane_get, if_pos (by omega), show (4 * w.val + k) % 4 = k by omega]

/-- A byte outside the lane that was written. -/
theorem setLane_get_other (b : Block) (w : Fin 4) (x : Word) {i : Nat} (hi : i < 16) (h : i / 4 ≠ w.val) :
    (setLane b w x)[i] = b[i] := by
  rw [setLane_get, if_neg h]

theorem lane_setLane_same (b : Block) (w : Fin 4) (x : Word) : lane (setLane b w x) w = x := by
  have h0 := setLane_get_same b w x 0 (by decide)
  rw [lane, setLane_get_same b w x 3 (by decide), setLane_get_same b w x 2 (by decide),
    setLane_get_same b w x 1 (by decide)]
  exact h0 ▸ append_extractLsb'_bytes x

theorem lane_setLane_other (b : Block) {w u : Fin 4} (x : Word) (h : u ≠ w) :
    lane (setLane b w x) u = lane b u := by
  have hne : u.val ≠ w.val := Fin.val_ne_of_ne h
  simp only [lane]
  rw [setLane_get_other b w x _ (by omega), setLane_get_other b w x _ (by omega),
    setLane_get_other b w x _ (by omega), setLane_get_other b w x _ (by omega)]

end Sys2Proof.Machine
end

section
/-! PROOFS. The perform step of a legal word (10_state.md R26); who writes KEY and IV (R31, R32), and what
every perform step does to IE and DONE (60_exceptions.md R266): by command, by register write, by agent. -/

namespace Sys2Proof.Machine

/-- KDF writes KEY exactly where it ends with code 0 (44_key_derivation.md R183). -/
theorem kdfUnder_key (P : Params) (s : State) :
    (kdfUnder P s).key = s.key ∨ (kdfUnder P s).errcode = .ok := by
  rcases kdfUnder_cases P s with ⟨-, h⟩ | ⟨-, -, h⟩ <;> rw [h]
  · exact .inl rfl
  · exact .inr rfl

/-- What KDF leaves as it was, whether it succeeds or not. -/
theorem kdfUnder_frame (P : Params) (s : State) :
    (kdfUnder P s).iv = s.iv ∧ (kdfUnder P s).ie = s.ie ∧ (kdfUnder P s).done = true := by
  rcases kdfUnder_cases P s with ⟨-, h⟩ | ⟨-, -, h⟩ <;> simp [h]

/-- CBCENC writes IV only where it ends with code 0 (46_cbc.md R225). -/
theorem cbcencUnder_iv (P : Params) (s : State) :
    (cbcencUnder P s).iv = s.iv ∨ (cbcencUnder P s).errcode = .ok := by
  rcases cbcencUnder_cases P s with ⟨-, h⟩ | ⟨-, -, h⟩ | ⟨ivv, -, -, h⟩ <;> rw [h]
  · exact .inl rfl
  · exact .inl rfl
  · exact .inr rfl

/-- What CBCENC leaves as it was, whether it succeeds or not. -/
theorem cbcencUnder_frame (P : Params) (s : State) :
    (cbcencUnder P s).key = s.key ∧ (cbcencUnder P s).ie = s.ie ∧ (cbcencUnder P s).done = true := by
  rcases cbcencUnder_cases P s with ⟨-, h⟩ | ⟨-, -, h⟩ | ⟨ivv, -, -, h⟩ <;>
    simp [h, cbcencWrite]

/-- CBCDEC writes IV only where it ends with code 0 (46_cbc.md R226). -/
theorem cbcdecUnder_iv (P : Params) (s : State) :
    (cbcdecUnder P s).iv = s.iv ∨ (cbcdecUnder P s).errcode = .ok := by
  rcases cbcdecUnder_cases P s with ⟨c, -, h⟩ | ⟨p, -, h⟩ <;> rw [h]
  · exact .inl rfl
  · exact .inr rfl

/-- What CBCDEC leaves as it was, whether it succeeds or not. -/
theorem cbcdecUnder_frame (P : Params) (s : State) :
    (cbcdecUnder P s).key = s.key ∧ (cbcdecUnder P s).ie = s.ie ∧ (cbcdecUnder P s).done = true := by
  rcases cbcdecUnder_cases P s with ⟨c, -, h⟩ | ⟨p, -, h⟩ <;> simp [h, cbcdecWrite]

/-- What every command does to KEY, IV, IE and DONE. -/
theorem exec_key_iv_ie_done {i : Instr} {s t : State} (h : exec i s = .next t) :
    (t.key = s.key ∨ (i = .kdf ∧ t.errcode = .ok)) ∧
      (t.iv = s.iv ∨ ((i = .cbcenc ∨ i = .cbcdec) ∧ t.errcode = .ok)) ∧ t.ie = s.ie ∧ t.done = true := by
  obtain ⟨t', he, hc⟩ := exec_cases i s
  obtain rfl : t' = t := Host.Outcome.next.inj (he.symm.trans h)
  rcases hc with ⟨-, rfl⟩ | ⟨vd, b, -, rfl⟩ | ⟨x, -, -, -, rfl⟩ | ⟨hi, rfl⟩ | ⟨hi, rfl⟩ | ⟨hi, rfl⟩
  · exact ⟨.inl rfl, .inl rfl, rfl, rfl⟩
  · exact ⟨.inl rfl, .inl rfl, rfl, rfl⟩
  · exact ⟨.inl rfl, .inl rfl, rfl, rfl⟩
  · obtain ⟨hiv, hie⟩ := kdfUnder_frame Config.params s
    exact ⟨(kdfUnder_key _ s).imp_right fun hok => ⟨hi, hok⟩, .inl hiv, hie⟩
  · obtain ⟨hkey, hie⟩ := cbcencUnder_frame Config.params s
    exact ⟨.inl hkey, (cbcencUnder_iv _ s).imp_right fun hok => ⟨.inl hi, hok⟩, hie⟩
  · obtain ⟨hkey, hie⟩ := cbcdecUnder_frame Config.params s
    exact ⟨.inl hkey, (cbcdecUnder_iv _ s).imp_right fun hok => ⟨.inr hi, hok⟩, hie⟩

/-- The core's turn on a legal pending word. -/
theorem coreTurn_of_decode {s : State} {w : Word} {i : Instr} (hp : s.pend = some w)
    (hd : decode w = some i) : coreTurn s = exec i s := by
  simp [coreTurn, hp, hd]

/-- A step on the core's turn runs a legal pending word (10_state.md R26). -/
theorem step_of_decode {s : State} {w : Word} {i : Instr} {rest : List Turn} (hc : s.CoreHasTurn rest)
    (hp : s.pend = some w) (hd : decode w = some i) : step s = exec i (s.setInbox rest) := by
  rw [step_core hc, coreTurn_of_decode (s := s.setInbox rest) hp hd]

/-- A command word is its own 32-bit number (30_encoding.md R80). -/
theorem State.withFetchWord_toNat (s : State) (w : Word) : s.withFetchWord 32 w.toNat = s.fetched w := by
  rw [State.withFetchWord, Nat.mod_eq_of_lt w.isLt, BitVec.ofNat_toNat, BitVec.setWidth_eq]

/-- What the core's turn does to KEY and IV. -/
theorem coreTurn_key_iv {s t : State} (h : coreTurn s = .next t) :
    (t.key = s.key ∨ ∃ w, s.pend = some w ∧ decode w = some .kdf ∧ t.errcode = .ok) ∧
      (t.iv = s.iv ∨ ∃ w, s.pend = some w ∧ (decode w = some .cbcenc ∨ decode w = some .cbcdec) ∧
        t.errcode = .ok) := by
  rcases coreTurn_cases s with ⟨-, hc⟩ | ⟨w, -, -, hc⟩ | ⟨w, i, hp, hd, hc⟩ <;> rw [hc] at h
  · obtain rfl := Host.Outcome.next.inj h
    exact ⟨.inl rfl, .inl rfl⟩
  · obtain rfl := Host.Outcome.next.inj h
    exact ⟨.inl rfl, .inl rfl⟩
  · obtain ⟨hkey, hiv, -⟩ := exec_key_iv_ie_done h
    refine ⟨hkey.imp_right ?_, hiv.imp_right ?_⟩
    · rintro ⟨rfl, hok⟩
      exact ⟨w, hp, hd, hok⟩
    · rintro ⟨rfl | rfl, hok⟩
      · exact ⟨w, hp, .inl hd, hok⟩
      · exact ⟨w, hp, .inr hd, hok⟩

/-- A perform step keeps IE and sets DONE, with an error or without one (R266). -/
theorem coreTurn_ie_done {s t : State} {w : Word} (hp : s.pend = some w) (h : coreTurn s = .next t) :
    t.ie = s.ie ∧ t.done = true := by
  rcases coreTurn_cases s with ⟨hn, -⟩ | ⟨_, -, -, hc⟩ | ⟨_, i, -, -, hc⟩
  · rw [hp] at hn
    contradiction
  · obtain rfl := Host.Outcome.next.inj (hc.symm.trans h)
    exact ⟨rfl, rfl⟩
  · exact (exec_key_iv_ie_done (hc.symm.trans h)).2.2

/-- A write that busy may turn away leaves what both the write and IGN leave. -/
theorem State.unlessBusy_congr {α : Type} (f : State → α) {s t : State} (ht : f t = f s)
    (hi : f s.setIgn = f s) : f (s.unlessBusy t) = f s := by
  unfold State.unlessBusy
  split
  · exact hi
  · exact ht

/-- The register writes that reach KEY: its lanes while idle, and the soft reset. -/
theorem State.writeWin_key (s : State) (r : WinReg) (x : Word) :
    (s.writeWin r x).key = s.key ∨ (∃ w, r = .key w ∧ s.pend = none) ∨
      (r = .ctrl ∧ x.getLsbD 1 = true) := by
  cases r with
  | id | status | errcode | result | iv | reserved => exact .inl rfl
  | ctrl =>
    cases hx : x.getLsbD 1 with
    | true => exact .inr (.inr ⟨rfl, rfl⟩)
    | false => exact .inl (congrArg State.key (State.writeCtrl_ie hx s) :)
  | key w =>
    by_cases hp : s.pend = none
    · exact .inr (.inl ⟨w, rfl, hp⟩)
    · exact .inl (congrArg State.key (State.unlessBusy_of_busy hp _) :)
  | _ => exact .inl (State.unlessBusy_congr State.key rfl rfl)

/-- The register write that reaches IV: the soft reset. -/
theorem State.writeWin_iv (s : State) (r : WinReg) (x : Word) :
    (s.writeWin r x).iv = s.iv ∨ (r = .ctrl ∧ x.getLsbD 1 = true) := by
  cases r with
  | id | status | errcode | result | iv | reserved => exact .inl rfl
  | ctrl =>
    cases hx : x.getLsbD 1 with
    | true => exact .inr ⟨rfl, rfl⟩
    | false => exact .inl (congrArg State.iv (State.writeCtrl_ie hx s) :)
  | _ => exact .inl (State.unlessBusy_congr State.iv rfl rfl)

/-- What a host access that is done can do: a served register write, or at most M and the answer change. -/
theorem hostTurn_cases {a : HostAccess} {s t : State} (h : hostTurn a s = .next t) :
    (∃ o x, a = .writeReg o 32 x ∧ o.toNat % 4 = 0 ∧ t = (s.writeWin (winRegOf o) x).respond .ack) ∨
      ∃ m r, t = { s with mem := m, resp := r } := by
  cases a with
  | readReg o n =>
    obtain rfl := Host.Outcome.next.inj h
    unfold State.hostReadReg
    split
    · exact .inr ⟨_, _, rfl⟩
    · exact .inr ⟨_, _, rfl⟩
  | writeReg o n x =>
    obtain rfl := Host.Outcome.next.inj h
    unfold State.hostWriteReg
    split
    · next hok =>
      obtain ⟨rfl, ho⟩ := hok
      exact .inl ⟨o, x, rfl, ho, rfl⟩
    · exact .inr ⟨_, _, rfl⟩
  | readMem b n =>
    change hostReadMem Config.params b n s = _ at h
    rcases hostReadMem_cases Config.params b n s with ⟨-, hr⟩ | ⟨-, -, hr⟩ | ⟨-, -, hr⟩ <;> rw [hr] at h
    · cases h
    · cases h
    · exact .inr ⟨_, _, (Host.Outcome.next.inj h).symm⟩
  | writeMem b bs =>
    change hostWriteMem Config.params b bs s = _ at h
    rcases hostWriteMem_cases Config.params b bs s with ⟨-, hw⟩ | ⟨-, -, hw⟩ | ⟨-, -, hw⟩ <;> rw [hw] at h
    · cases h
    · cases h
    · exact .inr ⟨_, _, (Host.Outcome.next.inj h).symm⟩

/-- What a host turn does to KEY and IV. -/
theorem hostTurn_key_iv {a : HostAccess} {s t : State} (h : hostTurn a s = .next t) :
    (t.key = s.key ∨ ∃ o x, a = .writeReg o 32 x ∧
      ((0x40 ≤ o.toNat ∧ o.toNat ≤ 0x4C ∧ s.pend = none) ∨ (o = 0x04 ∧ x.getLsbD 1 = true))) ∧
      (t.iv = s.iv ∨ ∃ x, a = .writeReg 0x04 32 x ∧ x.getLsbD 1 = true) := by
  rcases hostTurn_cases h with ⟨o, x, rfl, ho, rfl⟩ | ⟨m, r, rfl⟩
  · have hctrl : winRegOf o = .ctrl → o = 0x04 := fun hr =>
      BitVec.eq_of_toNat_eq ((toNat_of_winRegOf ho hr nofun).trans rfl)
    constructor
    · rcases State.writeWin_key s (winRegOf o) x with hk | ⟨w, hr, hp⟩ | ⟨hr, hx⟩
      · exact .inl hk
      · have hw : o.toNat = 0x40 + 4 * w.val := toNat_of_winRegOf ho hr nofun
        exact .inr ⟨o, x, rfl, .inl ⟨by omega, by omega, hp⟩⟩
      · exact .inr ⟨o, x, rfl, .inr ⟨hctrl hr, hx⟩⟩
    · rcases State.writeWin_iv s (winRegOf o) x with hk | ⟨hr, hx⟩
      · exact .inl hk
      · exact .inr ⟨x, by rw [hctrl hr], hx⟩
  · exact ⟨.inl rfl, .inl rfl⟩

end Sys2Proof.Machine
end

section
/-! PROOFS. The obligations of 10_state.md. -/

namespace Sys2Proof.Machine

/-- Settles O44, agent by agent: the core by its commands, the host by its register writes, the reset. -/
theorem writersOfKeyAndIv : Obligations.WritersOfKeyAndIv := by
  intro s t h
  rcases turn_cases s with ⟨rest, hc⟩ | ⟨a, rest, ha⟩ | ⟨rest, hr⟩
  · rw [step_core hc] at h
    obtain ⟨hkey, hiv⟩ := coreTurn_key_iv h
    refine ⟨fun hne => .inl ?_, fun hne => .inl ?_⟩
    · obtain ⟨w, hw⟩ := hkey.resolve_left hne
      exact ⟨w, rest, hc, hw⟩
    · obtain ⟨w, hw⟩ := hiv.resolve_left hne
      exact ⟨w, rest, hc, hw⟩
  · rw [step_turn ha] at h
    obtain ⟨hkey, hiv⟩ := hostTurn_key_iv h
    refine ⟨fun hne => .inr (.inl ?_), fun hne => .inr (.inl ?_)⟩
    · obtain ⟨o, x, rfl, hw⟩ := hkey.resolve_left hne
      exact ⟨o, x, rest, ha, hw⟩
    · obtain ⟨x, rfl, hx⟩ := hiv.resolve_left hne
      exact ⟨x, rest, ha, hx⟩
  · exact ⟨fun _ => .inr (.inr ⟨rest, hr⟩), fun _ => .inr (.inr ⟨rest, hr⟩)⟩

/-- Settles O49: the register at the offset decides whether BUSY turns the write away. -/
theorem writesWhileBusy : Obligations.WritesWhileBusy := by
  intro s o x ts hp ho
  refine ⟨fun hin hr => step_writeReg_busy hin ho hp (winRegOf_idleOnly o ho hr), ?_, ?_, ?_,
    fun hin => step_readReg hin ho⟩
  · rintro hin rfl hx
    exact step_writeCtrl_ie hin hx
  · rintro hin rfl hx
    exact step_writeCtrl_reset hin hx
  · rintro hin rfl
    exact step_writeStatus hin

/-- Settles O50: the writes are the register writes of R24 and R25, the words read bit by bit. -/
theorem controlAndStatusRegisters : Obligations.ControlAndStatusRegisters := by
  intro s x ts
  refine ⟨step_writeCtrl_reset, step_writeCtrl_ie, fun hin => ?_, step_writeStatus, fun hin => ?_⟩
  · exact ⟨s.ctrlWord, step_readReg hin rfl, s.ctrlWord_getLsbD⟩
  · exact ⟨s.statusWord, step_readReg hin rfl, s.statusWord_bits⟩

/-- Settles O51: the bytes of a lane are where `setLane` puts them, and four bytes make a word. -/
theorem laneOrder : Obligations.LaneOrder := by
  intro b w x
  exact ⟨append_bytes_eq_or _ _ _ _, fun k => setLane_get_same b w x k k.isLt,
    fun i hi => setLane_get_other b w x i.isLt hi, lane_setLane_same b w x,
    fun u hu => lane_setLane_other b x hu⟩

/-- Settles O52: the word read is the one of the register at the offset, and each clause names one. -/
theorem windowReads : Obligations.WindowReads := by
  intro s o ts hin ho
  refine ⟨s.readWin (winRegOf o), step_readReg hin ho, ?_, ?_, ?_, ?_, ?_, ?_, ?_, ?_, ?_, ?_, ?_, ?_, ?_, ?_,
    ?_, ?_, ?_, ?_⟩
  · exact fun h => s.readWin_at .id nofun (congrArg BitVec.toNat h)
  · rintro rfl
    exact s.ctrlWord_getLsbD
  · rintro rfl
    exact s.statusWord_bits
  · exact fun h => s.readWin_at .errcode nofun (congrArg BitVec.toNat h)
  · exact fun h => s.readWin_at .cmd nofun (congrArg BitVec.toNat h)
  · exact fun h => s.readWin_at .result nofun (congrArg BitVec.toNat h)
  · exact fun h => s.readWin_at .srcAddr nofun (congrArg BitVec.toNat h)
  · exact fun h => s.readWin_at .srcLen nofun (congrArg BitVec.toNat h)
  · exact fun h => s.readWin_at .dstAddr nofun (congrArg BitVec.toNat h)
  · exact fun h => s.readWin_at .dstCap nofun (congrArg BitVec.toNat h)
  · exact fun h => s.readWin_at .idaAddr nofun (congrArg BitVec.toNat h)
  · exact fun h => s.readWin_at .idaLen nofun (congrArg BitVec.toNat h)
  · exact fun h => s.readWin_at .idbAddr nofun (congrArg BitVec.toNat h)
  · exact fun h => s.readWin_at .idbLen nofun (congrArg BitVec.toNat h)
  · exact fun w h => s.readWin_at (.key w) nofun h
  · exact fun w h => s.readWin_at (.iv w) nofun h
  · exact fun n w h => s.readWin_at (.v n w) nofun h
  · intro h
    rw [winRegOf_reserved o h]
    rfl

/-- Settles O53: each clause is the write of the register at its offset. -/
theorem windowWritesWhileIdle : Obligations.WindowWritesWhileIdle := by
  intro s o x ts hin hp
  refine ⟨?_, ?_, ?_, ?_, ?_, ?_, ?_, ?_, ?_, ?_, ?_, ?_, ?_, ?_⟩
  · rintro rfl hx
    exact step_writeCtrl_ie hin hx
  · rintro rfl hx
    exact step_writeCtrl_reset hin hx
  · rintro rfl
    exact step_writeStatus hin
  · rintro rfl
    exact step_writeCmd_idle hin hp
  · exact fun h => step_writeReg_idle .srcAddr hin hp nofun rfl (congrArg BitVec.toNat h)
  · exact fun h => step_writeReg_idle .srcLen hin hp nofun rfl (congrArg BitVec.toNat h)
  · exact fun h => step_writeReg_idle .dstAddr hin hp nofun rfl (congrArg BitVec.toNat h)
  · exact fun h => step_writeReg_idle .dstCap hin hp nofun rfl (congrArg BitVec.toNat h)
  · exact fun h => step_writeReg_idle .idaAddr hin hp nofun rfl (congrArg BitVec.toNat h)
  · exact fun h => step_writeReg_idle .idaLen hin hp nofun rfl (congrArg BitVec.toNat h)
  · exact fun h => step_writeReg_idle .idbAddr hin hp nofun rfl (congrArg BitVec.toNat h)
  · exact fun h => step_writeReg_idle .idbLen hin hp nofun rfl (congrArg BitVec.toNat h)
  · exact fun w h =>
      step_writeReg_idle (t := { s.setInbox ts with key := setLane s.key w x }) (.key w) hin hp nofun rfl h
  · exact fun n w h => step_writeReg_idle (.v n w) hin hp nofun rfl h

/-- Settles O54: the register at the offset takes no write, or its write looks at no reserved bit. -/
theorem reservedAndReadOnly : Obligations.ReservedAndReadOnly := by
  intro s o x y ts ho
  refine ⟨fun hin hr => ?_, fun hin hr => ?_, fun hxy => ?_, fun hxy => ?_, s.reservedBits_zero⟩
  · rw [step_writeReg hin ho, State.writeWin_readOnly (winRegOf_readOnly o ho hr)]
    rfl
  · rw [step_readReg hin ho, winRegOf_reserved o hr]
    rfl
  · rw [step_writeReg_at (r := .ctrl) rfl nofun rfl, step_writeReg_at (r := .ctrl) rfl nofun rfl]
    exact congrArg (fun t : State => Host.Outcome.next (t.respond .ack)) (State.writeCtrl_congr hxy _)
  · rw [step_writeReg_at (r := .status) rfl nofun rfl, step_writeReg_at (r := .status) rfl nofun rfl]
    exact congrArg (fun t : State => Host.Outcome.next (t.respond .ack)) (State.writeStatus_congr hxy _)

/-- Settles O57: a perform step keeps IE and sets DONE; an acceptance and a write of 1 clear DONE. -/
theorem interruptLine : Obligations.InterruptLine := by
  refine ⟨fun s => Bool.and_eq_true_iff, ?_, ?_, ?_⟩
  · intro s t w rest hc hp h
    rw [step_core hc] at h
    obtain ⟨hie, hdone⟩ := coreTurn_ie_done (s := s.setInbox rest) hp h
    rw [State.irq, hie, hdone, State.setInbox_ie, Bool.and_true]
  · intro s t w ts hin hp h
    obtain rfl := Host.Outcome.next.inj ((step_writeCmd_idle hin hp).symm.trans h)
    exact Bool.and_false _
  · intro s t x ts hin hx h
    obtain rfl := Host.Outcome.next.inj ((step_writeStatus hin).symm.trans h)
    simp [State.irq, hx]

/-- Settles O40: the second half is the first on the state that has just accepted the word. -/
theorem stepRunsDecodedInstruction : Obligations.StepRunsDecodedInstruction := by
  refine ⟨fun s w i rest => step_of_decode, fun s w i hd => ?_⟩
  rw [State.withFetchWord_toNat]
  exact step_of_decode (s := s.fetched w) (.inl rfl) rfl hd

/-- Settles O42: reset lists no byte of M, has no pending word, and its code is 0. -/
theorem invariantAtReset : Obligations.InvariantAtReset :=
  ⟨{ memWf := Memory.wf_nil, memInside := nofun, pendIsCmd := nofun, codeRaised := nofun }, rfl⟩

/-- Settles O48: the write and the read of the register at 0x10. -/
theorem commandAcceptance : Obligations.CommandAcceptance := by
  intro s w ts
  exact ⟨step_writeCmd_idle, fun hin hp => step_writeReg_busy hin rfl hp rfl, fun hin => step_readReg hin rfl⟩

end Sys2Proof.Machine
end

section
/-! PROOFS. M as a map, continued (20_memory.md R61): a byte string written reads back, the one form is
canonical, and what a store into a range does. -/

namespace Sys2Proof.Machine

/-- The entries of a memory in its one form are its bytes that are not the unlisted one. -/
theorem Memory.mem_iff_read {m : Memory} (h : m.wf) (c : Host.Cell) :
    c ∈ m ↔ m.read c.1 = c.2 ∧ c.2 ≠ Memory.unlistedByte := by
  induction m with
  | nil => simpa [Memory.read] using Eq.symm
  | cons d m ih =>
    have hd : d.2 ≠ Memory.unlistedByte := h.2 d List.mem_cons_self
    have hab := Memory.wf_above h
    rw [List.mem_cons, ih (Memory.wf_tail h), Memory.read]
    by_cases hk : d.1 = c.1
    · rw [if_pos hk, Memory.read_below (a := c.1) fun e he => hk ▸ hab e he, Prod.ext_iff]
      grind
    · rw [if_neg hk, Prod.ext_iff]
      grind

/-- Reading a written byte string gives it back (R61). -/
theorem Memory.readBytes_writeBytes {m : Memory} (h : m.wf) (a : Nat) (bs : Bytes) :
    (m.writeBytes a bs).readBytes a bs.length = bs := by
  refine List.ext_getElem (Memory.readBytes_length _ _ _) fun i hi hb => ?_
  rw [← List.getD_eq_getElem _ 0 hi, ← List.getD_eq_getElem _ 0 hb, Memory.readBytes_getD hb,
    Memory.read_writeBytes h, if_pos (by omega), Nat.add_sub_cancel_left]

/-- `m'` is `m` after a byte string as long as the range `r`, which lies in M, was written to it. -/
def Stores (P : Params) (m m' : Memory) (r : Nat × Nat) : Prop :=
  InRange P r.1 r.2 ∧ ∃ bs : Bytes, bs.length = r.2 ∧ m' = m.writeBytes r.1 bs

/-- A store keeps the one form of M. -/
theorem Stores.wf {P : Params} {m m' : Memory} {r : Nat × Nat} (h : Stores P m m' r) (hm : m.wf) :
    m'.wf := by
  obtain ⟨-, bs, -, rfl⟩ := h
  exact Memory.writeBytes_wf hm

/-- A store into a range in M lists no byte outside M. -/
theorem Stores.inside {P : Params} {m m' : Memory} {r : Nat × Nat} (h : Stores P m m' r)
    (hm : ∀ c ∈ m, c.1 < P.memSize) : ∀ c ∈ m', c.1 < P.memSize := by
  obtain ⟨hr, bs, hl, rfl⟩ := h
  intro c hc
  rcases Memory.mem_writeBytes hc with hc | ⟨h1, h2⟩
  · exact hm c hc
  · rcases hr with h0 | hle <;> omega

/-- A store changes a byte only in its range. -/
theorem Stores.insideRange {P : Params} {m m' : Memory} {r : Nat × Nat} {a : Nat}
    (h : Stores P m m' r) (hm : m.wf) (hne : m'.read a ≠ m.read a) : InsideRange r a := by
  obtain ⟨-, bs, hl, rfl⟩ := h
  by_contra hout
  rw [Memory.read_writeBytes hm, hl, if_neg hout] at hne
  exact hne rfl

end Sys2Proof.Machine
end

section
/-! PROOFS. The store of every command and of every agent: which range of M it can be (R60). -/

namespace Sys2Proof.Machine

/-- Which bytes are stored does not depend on the turns to come. -/
theorem storedRange_setInbox (i : Instr) (s t : State) (ts : List Turn) :
    storedRange i (s.setInbox ts) t = storedRange i s t := by
  cases i <;> rfl

/-- The checks of CBCENC pass only if the envelope's range lies in M (46_cbc.md R225). -/
theorem cbcencCheck_inRange {P : Params} {s : State} (h : cbcencCheck P s = .ok) :
    InRange P s.dstAddr.toNat (envelopeLength s.srcLen.toNat) := by
  rcases cbcencCheck_cases P s with
    ⟨-, hc⟩ | ⟨-, ⟨-, hc⟩ | ⟨-, ⟨-, hc⟩ | ⟨hin, -⟩⟩⟩
  · cases hc.symm.trans h
  · cases hc.symm.trans h
  · cases hc.symm.trans h
  · exact hin

/-- The checks of CBCENC never give the reserved code (60_exceptions.md R262). -/
theorem cbcencCheck_ne_malformed (P : Params) (s : State) : cbcencCheck P s ≠ .malformedEncoding := by
  rcases cbcencCheck_cases P s with
    ⟨-, hc⟩ | ⟨-, ⟨-, hc⟩ | ⟨-, ⟨-, hc⟩ | ⟨-, ⟨-, hc⟩ | ⟨-, hc⟩⟩⟩⟩ <;> exact hc ▸ nofun

/-- A failing check ends CBCENC with its code, before the draw. -/
theorem cbcencUnder_of_check {P : Params} {s : State} (h : cbcencCheck P s ≠ .ok) :
    cbcencUnder P s = s.finish (cbcencCheck P s) := by
  rcases cbcencUnder_cases P s with ⟨-, hu⟩ | ⟨hc, -⟩ | ⟨_, hc, -⟩
  · exact hu
  · exact absurd hc h
  · exact absurd hc h

/-- The envelope that CBCENC makes is as long as R225 says. -/
theorem cbcEncrypt_source_length (P : Params) (s : State) (ivv : Block) :
    (cbcEncrypt P s.source s.key ivv).length = envelopeLength s.srcLen.toNat := by
  rw [cbcEncrypt_length, State.source, Memory.readBytes_length]

/-- CBCENC stores its envelope and ends with code 0, or leaves M as it is (R225). -/
theorem cbcencUnder_mem (P : Params) (s : State) :
    (cbcencUnder P s).mem = s.mem ∨ (cbcencUnder P s).errcode = .ok ∧
      Stores P s.mem (cbcencUnder P s).mem (storedRange .cbcenc s (cbcencUnder P s)) := by
  rcases cbcencUnder_cases P s with ⟨-, h⟩ | ⟨-, -, h⟩ | ⟨ivv, hok, -, h⟩ <;> rw [h]
  · exact .inl rfl
  · exact .inl rfl
  · exact .inr ⟨rfl, cbcencCheck_inRange hok, _, cbcEncrypt_source_length P s ivv, rfl⟩

/-- A check of CBCDEC that fails has an error's code, and not the reserved one (R262). -/
theorem cbcdecCheck_error_ne {P : Params} {s : State} {c : Code} (h : cbcdecCheck P s = .error c) :
    c ≠ .ok ∧ c ≠ .malformedEncoding := by
  rcases cbcdecCheck_error h with rfl | rfl | rfl | rfl | rfl <;> exact ⟨nofun, nofun⟩

/-- A length that DST_CAP admits is the number that RESULT shows (10_state.md R29). -/
theorem toNat_ofNat_of_le {n : Nat} {cap : Word} (h : n ≤ cap.toNat) : (BitVec.ofNat 32 n).toNat = n := by
  rw [BitVec.toNat_ofNat, Nat.mod_eq_of_lt (Nat.lt_of_le_of_lt h cap.isLt)]

/-- The range that a successful CBCDEC stores to is the plaintext's. -/
theorem storedRange_cbcdecWrite {P : Params} {s : State} {p : Bytes} (h : cbcdecCheck P s = .ok p) :
    storedRange .cbcdec s ((cbcdecWrite p s).finish .ok) = (s.dstAddr.toNat, p.length) := by
  obtain ⟨-, -, -, hcap, -⟩ := cbcdecCheck_ok.1 h
  exact congrArg (Prod.mk _) (toNat_ofNat_of_le hcap)

/-- CBCDEC stores its plaintext and ends with code 0, or leaves M as it is (R226). -/
theorem cbcdecUnder_mem (P : Params) (s : State) :
    (cbcdecUnder P s).mem = s.mem ∨ (cbcdecUnder P s).errcode = .ok ∧
      Stores P s.mem (cbcdecUnder P s).mem (storedRange .cbcdec s (cbcdecUnder P s)) := by
  rcases cbcdecUnder_cases P s with ⟨c, -, h⟩ | ⟨p, hok, h⟩ <;> rw [h]
  · exact .inl rfl
  · obtain ⟨-, -, -, -, hin, -⟩ := cbcdecCheck_ok.1 hok
    rw [storedRange_cbcdecWrite hok]
    exact .inr ⟨rfl, hin, p, rfl, rfl⟩

/-- KDF writes no byte of M. -/
theorem kdfUnder_mem (P : Params) (s : State) : (kdfUnder P s).mem = s.mem := by
  rcases kdfUnder_cases P s with ⟨-, h⟩ | ⟨-, -, h⟩ <;> rw [h] <;> rfl

/-- What a command does to M: nothing, or the store of a CBCENC or CBCDEC that ends with code 0. -/
theorem exec_mem {i : Instr} {s t : State} (h : exec i s = .next t) :
    t.mem = s.mem ∨ (i = .cbcenc ∨ i = .cbcdec) ∧ t.errcode = .ok ∧
      Stores Config.params s.mem t.mem (storedRange i s t) := by
  obtain ⟨t', he, hc⟩ := exec_cases i s
  obtain rfl : t' = t := Host.Outcome.next.inj (he.symm.trans h)
  rcases hc with ⟨-, rfl⟩ | ⟨vd, b, -, rfl⟩ | ⟨x, -, -, -, rfl⟩ | ⟨-, rfl⟩ | ⟨rfl, rfl⟩ | ⟨rfl, rfl⟩
  · exact .inl rfl
  · exact .inl rfl
  · exact .inl rfl
  · exact .inl (kdfUnder_mem _ s)
  · exact (cbcencUnder_mem _ s).imp_right fun hs => ⟨.inl rfl, hs⟩
  · exact (cbcdecUnder_mem _ s).imp_right fun hs => ⟨.inr rfl, hs⟩

/-- What the core's turn does to M. -/
theorem coreTurn_mem {s t : State} (h : coreTurn s = .next t) :
    t.mem = s.mem ∨ ∃ w i, s.pend = some w ∧ decode w = some i ∧ (i = .cbcenc ∨ i = .cbcdec) ∧
      t.errcode = .ok ∧ Stores Config.params s.mem t.mem (storedRange i s t) := by
  rcases coreTurn_cases s with ⟨-, hc⟩ | ⟨w, -, -, hc⟩ | ⟨w, i, hp, hd, hc⟩ <;> rw [hc] at h
  · obtain rfl := Host.Outcome.next.inj h
    exact .inl rfl
  · obtain rfl := Host.Outcome.next.inj h
    exact .inl rfl
  · exact (exec_mem h).imp_right fun hs => ⟨w, i, hp, hd, hs⟩

/-- A register write, a soft reset too, changes no byte of M (70_reset_and_hazards.md R291). -/
theorem State.writeWin_mem (s : State) (r : WinReg) (x : Word) : (s.writeWin r x).mem = s.mem := by
  cases r with
  | id | status | errcode | result | iv | reserved => rfl
  | ctrl =>
    change (s.writeCtrl x).mem = s.mem
    unfold State.writeCtrl
    split <;> rfl
  | _ => exact State.unlessBusy_congr State.mem rfl rfl

/-- What a host turn does to M: nothing, or a store that meets no range in use (R298). -/
theorem hostTurn_mem {a : HostAccess} {s t : State} (h : hostTurn a s = .next t) :
    t.mem = s.mem ∨ ∃ b bs, a = .writeMem b bs ∧
      (∀ r ∈ s.rangesInUse, ¬ Overlap b bs.length r.1 r.2) ∧
      Stores Config.params s.mem t.mem (b, bs.length) := by
  cases a with
  | readReg o n =>
    obtain rfl := Host.Outcome.next.inj h
    unfold State.hostReadReg
    split <;> exact .inl rfl
  | writeReg o n x =>
    obtain rfl := Host.Outcome.next.inj h
    unfold State.hostWriteReg
    split
    · exact .inl (s.writeWin_mem _ x)
    · exact .inl rfl
  | readMem b n =>
    change hostReadMem Config.params b n s = _ at h
    rcases hostReadMem_cases Config.params b n s with ⟨-, hr⟩ | ⟨-, -, hr⟩ | ⟨-, -, hr⟩ <;> rw [hr] at h
    · cases h
    · cases h
    · obtain rfl := Host.Outcome.next.inj h
      exact .inl rfl
  | writeMem b bs =>
    change hostWriteMem Config.params b bs s = _ at h
    rcases hostWriteMem_cases Config.params b bs s with ⟨-, hw⟩ | ⟨-, -, hw⟩ | ⟨hin, hfree, hw⟩ <;> rw [hw] at h
    · cases h
    · cases h
    · obtain rfl := Host.Outcome.next.inj h
      exact .inr ⟨b, bs, rfl, hfree, hin, bs, rfl, rfl⟩

/-- A host write of M outside every range in use stores its bytes (20_memory.md R60). -/
theorem step_writeMem_free {s : State} {a : Nat} {bs : Bytes} {ts : List Turn}
    (hin : s.inbox = .host (.writeMem a bs) :: ts) (hr : InRange Config.params a bs.length)
    (hfree : ∀ r ∈ s.rangesInUse, ¬ Overlap a bs.length r.1 r.2) :
    step s = .next { s with inbox := ts, resp := .ack, mem := s.mem.writeBytes a bs } := by
  rw [← (pendingRanges_setInbox s ts).1] at hfree
  rw [step_turn hin]
  rcases hostWriteMem_cases Config.params a bs (s.setInbox ts) with ⟨hno, -⟩ | ⟨-, ⟨r, hm, ho⟩, -⟩ | ⟨-, -, h⟩
  · exact absurd hr hno
  · exact absurd ho (hfree r hm)
  · exact h

/-- A host read of M outside every range to be written answers the bytes as they stand (R68). -/
theorem step_readMem_free {s : State} {a n : Nat} {ts : List Turn}
    (hin : s.inbox = .host (.readMem a n) :: ts) (hr : InRange Config.params a n)
    (hfree : ∀ r ∈ s.rangesToWrite, ¬ Overlap a n r.1 r.2) :
    step s = .next { s with inbox := ts, resp := .bytes (s.mem.readBytes a n) } := by
  rw [← (pendingRanges_setInbox s ts).2] at hfree
  rw [step_turn hin]
  rcases hostReadMem_cases Config.params a n (s.setInbox ts) with ⟨hno, -⟩ | ⟨-, ⟨r, hm, ho⟩, -⟩ | ⟨-, -, h⟩
  · exact absurd hr hno
  · exact absurd ho (hfree r hm)
  · exact h

/-- What a step does to M: nothing, the store of a host write outside every range in use, or the store
of a CBCENC or CBCDEC that ends with code 0. -/
theorem step_mem {s t : State} (h : step s = .next t) :
    t.mem = s.mem ∨
      (∃ b bs rest, s.inbox = .host (.writeMem b bs) :: rest ∧
        (∀ r ∈ s.rangesInUse, ¬ Overlap b bs.length r.1 r.2) ∧
        Stores Config.params s.mem t.mem (b, bs.length)) ∨
      ∃ w i rest, s.CoreHasTurn rest ∧ s.pend = some w ∧ decode w = some i ∧
        (i = .cbcenc ∨ i = .cbcdec) ∧ t.errcode = .ok ∧
        Stores Config.params s.mem t.mem (storedRange i s t) := by
  rcases turn_cases s with ⟨rest, hc⟩ | ⟨a, rest, ha⟩ | ⟨rest, hr⟩
  · rw [step_core hc] at h
    refine (coreTurn_mem h).imp_right ?_
    rintro ⟨w, i, hp, hd, hi, hok, hst⟩
    rw [storedRange_setInbox] at hst
    exact .inr ⟨w, i, rest, hc, hp, hd, hi, hok, hst⟩
  · rw [step_turn ha] at h
    refine (hostTurn_mem h).imp_right ?_
    rintro ⟨b, bs, rfl, hfree, hst⟩
    rw [(pendingRanges_setInbox s rest).1] at hfree
    exact .inl ⟨b, bs, rest, ha, hfree, hst⟩
  · rw [step_turn hr] at h
    obtain rfl := Host.Outcome.next.inj h
    exact .inl rfl

end Sys2Proof.Machine
end

section
/-! PROOFS. The latch of the pending command and ERRCODE: what every step keeps of them
(10_state.md R26, R28; 60_exceptions.md R262). -/

namespace Sys2Proof.Machine

/-- The half of the invariant that speaks of registers: a pending word is the one CMD shows and DONE is
0 while it waits, and ERRCODE does not hold the reserved code. -/
def State.Latched (s : State) : Prop :=
  (∀ w, s.pend = some w → s.cmd = w ∧ s.done = false) ∧ s.errcode ≠ .malformedEncoding

/-- A state without a pending word is latched by its code alone. -/
theorem State.latched_of_idle {s : State} (hp : s.pend = none) (hc : s.errcode ≠ .malformedEncoding) :
    s.Latched :=
  ⟨fun _ hw => absurd (hp.symm.trans hw) nofun, hc⟩

/-- A write that busy may turn away keeps the latch if the write does: IGN is no part of it. -/
theorem State.Latched.unlessBusy {s t : State} (hs : s.Latched) (ht : t.Latched) :
    (s.unlessBusy t).Latched := by
  unfold State.unlessBusy
  split
  · exact hs
  · exact ht

/-- A register write keeps the latch: only an accepted command sets it, only a reset empties it. -/
theorem State.Latched.writeWin {s : State} (h : s.Latched) (r : WinReg) (x : Word) :
    (s.writeWin r x).Latched := by
  obtain ⟨hpend, hcode⟩ := h
  cases r with
  | id | errcode | result | iv | reserved => exact ⟨hpend, hcode⟩
  | ctrl =>
    change (s.writeCtrl x).Latched
    unfold State.writeCtrl
    split
    · exact State.latched_of_idle rfl nofun
    · exact ⟨hpend, hcode⟩
  | status =>
    refine ⟨fun w hw => ?_, hcode⟩
    obtain ⟨hcmd, hdone⟩ := hpend w hw
    exact ⟨hcmd, by simp [State.writeWin, hdone]⟩
  | cmd =>
    have haccept : (s.accept x).Latched := ⟨fun w hw => ⟨Option.some.inj hw, rfl⟩, hcode⟩
    exact State.Latched.unlessBusy ⟨hpend, hcode⟩ haccept
  | _ => exact State.Latched.unlessBusy ⟨hpend, hcode⟩ ⟨hpend, hcode⟩

/-- A host turn keeps the latch: a register write does, and an access to M leaves it alone. -/
theorem hostTurn_latched {a : HostAccess} {s t : State} (hs : s.Latched)
    (h : hostTurn a s = .next t) : t.Latched := by
  rcases hostTurn_cases h with ⟨o, x, -, -, rfl⟩ | ⟨m, r, rfl⟩
  · exact hs.writeWin (winRegOf o) x
  · exact hs

/-- Every command empties the latch, with a code that is not the reserved one (R262, R266). -/
theorem exec_pend_errcode {i : Instr} {s t : State} (h : exec i s = .next t) :
    t.pend = none ∧ t.errcode ≠ .malformedEncoding := by
  obtain ⟨t', he, hc⟩ := exec_cases i s
  obtain rfl : t' = t := Host.Outcome.next.inj (he.symm.trans h)
  rcases hc with ⟨-, rfl⟩ | ⟨vd, b, -, rfl⟩ | ⟨x, -, -, -, rfl⟩ | ⟨-, rfl⟩ | ⟨-, rfl⟩ | ⟨-, rfl⟩
  · exact ⟨rfl, nofun⟩
  · exact ⟨rfl, nofun⟩
  · exact ⟨rfl, nofun⟩
  · rcases kdfUnder_cases Config.params s with ⟨-, h⟩ | ⟨-, -, h⟩ <;> rw [h] <;> exact ⟨rfl, nofun⟩
  · rcases cbcencUnder_cases Config.params s with ⟨-, h⟩ | ⟨-, -, h⟩ | ⟨ivv, -, -, h⟩ <;> rw [h]
    · exact ⟨rfl, cbcencCheck_ne_malformed _ s⟩
    · exact ⟨rfl, nofun⟩
    · exact ⟨rfl, nofun⟩
  · rcases cbcdecUnder_cases Config.params s with ⟨c, hc, h⟩ | ⟨p, -, h⟩ <;> rw [h]
    · exact ⟨rfl, (cbcdecCheck_error_ne hc).2⟩
    · exact ⟨rfl, nofun⟩

/-- The core's turn keeps the latch: idle it changes nothing, and a perform step empties it. -/
theorem coreTurn_latched {s t : State} (hs : s.Latched) (h : coreTurn s = .next t) : t.Latched := by
  rcases coreTurn_cases s with ⟨-, hc⟩ | ⟨w, -, -, hc⟩ | ⟨w, i, -, -, hc⟩ <;> rw [hc] at h
  · exact Host.Outcome.next.inj h ▸ hs
  · exact Host.Outcome.next.inj h ▸ State.latched_of_idle rfl nofun
  · obtain ⟨hp, hcode⟩ := exec_pend_errcode h
    exact State.latched_of_idle hp hcode

/-- Every step keeps the latch, whoever takes it. -/
theorem step_latched {s t : State} (hs : s.Latched) (h : step s = .next t) : t.Latched := by
  rcases turn_cases s with ⟨rest, hc⟩ | ⟨a, rest, ha⟩ | ⟨rest, hr⟩
  · rw [step_core hc] at h
    exact coreTurn_latched (s := s.setInbox rest) hs h
  · rw [step_turn ha] at h
    exact hostTurn_latched (s := s.setInbox rest) hs h
  · rw [step_turn hr] at h
    exact Host.Outcome.next.inj h ▸ State.latched_of_idle rfl nofun

end Sys2Proof.Machine
end

section
/-! PROOFS. Two runs of a command from states that differ in M only (20_memory.md R60). -/

namespace Sys2Proof.Machine

/-- `M <- m`, all of it. -/
def State.setMem (s : State) (m : Memory) : State := { s with mem := m }

/-- The source bytes are the same in an M that agrees in the source range. -/
theorem State.source_setMem {s : State} {m' : Memory}
    (h : ∀ a, InsideRange (s.srcAddr.toNat, s.srcLen.toNat) a → m'.read a = s.mem.read a) :
    (s.setMem m').source = s.source :=
  Memory.readBytes_congr fun a h1 h2 => h a ⟨h1, h2⟩

/-- The end `t` of a command over M = `m` and its end `t'` over M = `m'` differ in M only: an error
leaves each M as it was, and a success stores one string, as long as the range `r`, in both. -/
def SameButMem (m m' : Memory) (r : Nat × Nat) (t t' : State) : Prop :=
  (t.errcode ≠ .ok ∧ t' = t.setMem m') ∨
    ∃ bs : Bytes, bs.length = r.2 ∧ t.mem = m.writeBytes r.1 bs ∧ t' = t.setMem (m'.writeBytes r.1 bs)

/-- The registers are the same. -/
theorem SameButMem.registers {m m' : Memory} {r : Nat × Nat} {t t' : State}
    (h : SameButMem m m' r t t') : t' = { t with mem := t'.mem } := by
  rcases h with ⟨-, rfl⟩ | ⟨bs, -, -, rfl⟩ <;> rfl

/-- The bytes stored are the same. -/
theorem SameButMem.stored {m m' : Memory} {r : Nat × Nat} {t t' : State} {a : Nat}
    (h : SameButMem m m' r t t') (hm : m.wf) (hm' : m'.wf) (hok : t.errcode = .ok)
    (ha : InsideRange r a) : t'.mem.read a = t.mem.read a := by
  rcases h with ⟨hne, -⟩ | ⟨bs, hl, ht, rfl⟩
  · exact absurd hok hne
  · change (m'.writeBytes r.1 bs).read a = t.mem.read a
    rw [ht, Memory.read_writeBytes hm, Memory.read_writeBytes hm', hl, if_pos ha, if_pos ha]

/-- KDF reads M only in the identifiers' ranges (44_key_derivation.md R183). -/
theorem kdfUnder_setMem (P : Params) {s : State} {m' : Memory} (ha : (s.setMem m').identA = s.identA)
    (hb : (s.setMem m').identB = s.identB) : kdfUnder P (s.setMem m') = (kdfUnder P s).setMem m' := by
  rcases kdfUnder_cases P s with ⟨hbad, h⟩ | ⟨hina, hinb, h⟩ <;> rw [h]
  · exact if_pos hbad
  · unfold kdfUnder
    rw [ha, hb]
    exact if_neg (not_or.2 ⟨not_not.2 hina, not_not.2 hinb⟩)

/-- CBCENC reads M only in its source range (46_cbc.md R225). -/
theorem cbcencUnder_setMem (P : Params) {s : State} {m' : Memory} (hsrc : (s.setMem m').source = s.source) :
    SameButMem s.mem m' (storedRange .cbcenc s (cbcencUnder P s)) (cbcencUnder P s)
      (cbcencUnder P (s.setMem m')) := by
  have hcheck : cbcencCheck P (s.setMem m') = cbcencCheck P s := rfl
  have hdraw : (s.setMem m').nextDraw = s.nextDraw := rfl
  rcases cbcencUnder_cases P s with ⟨hc, h⟩ | ⟨hc, hd, h⟩ | ⟨ivv, hc, hd, h⟩ <;> rw [h]
  · exact .inl ⟨hc, cbcencUnder_of_check hc⟩
  · refine .inl ⟨nofun, ?_⟩
    simp only [cbcencUnder, hcheck, hc, hdraw, hd]
    rfl
  · refine .inr ⟨cbcEncrypt P s.source s.key ivv, cbcEncrypt_source_length P s ivv, rfl, ?_⟩
    simp only [cbcencUnder, hcheck, hc, hdraw, hd, ← hsrc]
    rfl

/-- CBCDEC reads M only in its source range (46_cbc.md R226). -/
theorem cbcdecUnder_setMem (P : Params) {s : State} {m' : Memory} (hsrc : (s.setMem m').source = s.source) :
    SameButMem s.mem m' (storedRange .cbcdec s (cbcdecUnder P s)) (cbcdecUnder P s)
      (cbcdecUnder P (s.setMem m')) := by
  have hcheck : cbcdecCheck P (s.setMem m') = cbcdecCheck P s := by
    simp only [cbcdecCheck, hsrc]
    rfl
  rcases cbcdecUnder_cases P s with ⟨c, hc, h⟩ | ⟨p, hc, h⟩ <;> rw [h]
  · refine .inl ⟨(cbcdecCheck_error_ne hc).1, ?_⟩
    simp only [cbcdecUnder, hcheck, hc]
    rfl
  · rw [storedRange_cbcdecWrite hc]
    refine .inr ⟨p, rfl, rfl, ?_⟩
    simp only [cbcdecUnder, cbcdecWrite, hcheck, hc, hsrc]
    rfl

/-- Every command reads M only in its source ranges: its ends over two Ms that agree there differ in M
only. -/
theorem exec_setMem {i : Instr} {s t t' : State} {m' : Memory}
    (hread : ∀ r ∈ readRanges i s, ∀ a, InsideRange r a → m'.read a = s.mem.read a)
    (h : exec i s = .next t) (h' : exec i (s.setMem m') = .next t') : t' = { t with mem := t'.mem } := by
  cases i with
  | kdf =>
    obtain rfl := Host.Outcome.next.inj h
    obtain rfl := Host.Outcome.next.inj h'
    have ha : (s.setMem m').identA = s.identA :=
      Memory.readBytes_congr fun a h1 h2 => hread _ List.mem_cons_self a ⟨h1, h2⟩
    have hb : (s.setMem m').identB = s.identB :=
      Memory.readBytes_congr fun a h1 h2 => hread _ (List.mem_cons_of_mem _ List.mem_cons_self) a ⟨h1, h2⟩
    rw [kdfUnder_setMem _ ha hb]
    rfl
  | cbcenc =>
    obtain rfl := Host.Outcome.next.inj h
    obtain rfl := Host.Outcome.next.inj h'
    exact (cbcencUnder_setMem _ (State.source_setMem (hread _ List.mem_cons_self))).registers
  | cbcdec =>
    obtain rfl := Host.Outcome.next.inj h
    obtain rfl := Host.Outcome.next.inj h'
    exact (cbcdecUnder_setMem _ (State.source_setMem (hread _ List.mem_cons_self))).registers
  | _ =>
    obtain rfl := Host.Outcome.next.inj h
    obtain rfl := Host.Outcome.next.inj h'
    rfl

end Sys2Proof.Machine
end

section
/-! PROOFS. The obligations of 20_memory.md. -/

namespace Sys2Proof.Machine

/-- Settles O43: M by the stores of a step, the registers by the latch. -/
theorem invariantKeptByEveryStep : Obligations.InvariantKeptByEveryStep := by
  rintro s t ⟨hwf, hin, hpend, hcode⟩ h
  obtain ⟨hpend', hcode'⟩ := step_latched ⟨hpend, hcode⟩ h
  have hmem : t.mem.wf ∧ ∀ c ∈ t.mem, c.1 < Config.params.memSize := by
    rcases step_mem h with hm | ⟨b, bs, -, -, -, hst⟩ | ⟨w, i, -, -, -, -, -, -, hst⟩
    · exact hm ▸ ⟨hwf, hin⟩
    · exact ⟨hst.wf hwf, hst.inside hin⟩
    · exact ⟨hst.wf hwf, hst.inside hin⟩
  exact ⟨hmem.1, hmem.2, hpend', hcode'⟩

/-- Settles O45: a byte that changed lies in the range of the step's store. -/
theorem writersOfMemory : Obligations.WritersOfMemory := by
  intro s t a hwf h hne
  rcases step_mem h with hm | ⟨b, bs, rest, hin, hfree, hst⟩ | ⟨w, i, rest, hc, hp, hd, hi, hok, hst⟩
  · exact absurd (congrArg (Memory.read · a) hm) hne
  · have ha := hst.insideRange hwf hne
    refine .inl ⟨b, bs, rest, hin, ha, fun r hr har => hfree r hr ?_⟩
    simp only [InsideRange, Overlap] at ha har ⊢
    omega
  · exact .inr ⟨w, i, rest, hc, hp, hd, hi, hok, hst.insideRange hwf hne⟩

/-- Settles O46, from what a read after a write gives inside and outside the string. -/
theorem memoryReadAfterWrite : Obligations.MemoryReadAfterWrite := by
  intro m a bs hm
  refine ⟨Memory.writeBytes_wf hm, Memory.readBytes_writeBytes hm a bs, fun x hx => ?_⟩
  rw [Memory.read_writeBytes hm, if_neg (by omega)]

/-- Settles O47: the reads give the entries, and entries in strictly rising order are one list. -/
theorem memoryFormIsCanonical : Obligations.MemoryFormIsCanonical := by
  intro m m' hm hm' h
  have hmem : ∀ c, c ∈ m ↔ c ∈ m' := fun c => by
    rw [Memory.mem_iff_read hm, Memory.mem_iff_read hm', h]
  have hirrefl : Std.Irrefl fun c d : Host.Cell => c.1 < d.1 := ⟨fun c => Nat.lt_irrefl c.1⟩
  have hantisymm : Std.Antisymm fun c d : Host.Cell => c.1 < d.1 :=
    ⟨fun c d hcd hdc => absurd hcd (Nat.lt_asymm hdc)⟩
  exact hm.1.eq_of_mem_iff hm'.1 hmem

/-- Settles O59: no range is in use, so no access is a hazard. -/
theorem hostMemoryAccessWithNothingInUse : Obligations.HostMemoryAccessWithNothingInUse := by
  intro s a ts hnone
  refine ⟨fun bs hin hr => step_writeMem_free hin hr ?_, fun n hin hr => step_readMem_free hin hr ?_⟩
  · rw [State.rangesInUse, pendingRanges_none hnone]
    exact nofun
  · rw [State.rangesToWrite, pendingRanges_none hnone]
    exact nofun

/-- Settles O39: both runs read the same bytes, so they take the same branch and store the same string. -/
theorem commandsReadOnlyTheirRanges : Obligations.CommandsReadOnlyTheirRanges := by
  refine ⟨fun i s t t' m' _ _ hread => exec_setMem hread, fun P s m' hm hm' hread => ?_⟩
  have hsrc := State.source_setMem hread
  exact ⟨fun hok a => (cbcencUnder_setMem P hsrc).stored hm hm' hok,
    fun hok a => (cbcdecUnder_setMem P hsrc).stored hm hm' hok⟩

/-- Settles O55: the bus serves a width of 32 at a multiple of 4, and nothing else. -/
theorem busErrorAccesses : Obligations.BusErrorAccesses := by
  intro s o n x ts
  have hbad : n ≠ 32 ∨ o.toNat % 4 ≠ 0 → ¬ WindowAccessOk o n := by
    rintro (h | h) ⟨h1, h2⟩
    · exact h h1
    · exact h h2
  refine ⟨fun h hin => ?_, fun h hin => ?_, ?_, ?_⟩
  · rw [step_turn hin]
    exact congrArg _ (if_neg (hbad h))
  · rw [step_turn hin]
    exact congrArg _ (if_neg (hbad h))
  · rintro rfl ho hin
    exact ⟨_, step_readReg hin ho⟩
  · rintro rfl ho hin
    exact ⟨_, step_writeReg hin ho, rfl⟩

end Sys2Proof.Machine
end

section
/-! PROOFS. Which words a row of the opcode map selects (30_encoding.md R83, R84): those with the row's OP
and a 0 in every field its class does not use. -/

namespace Sys2Proof

/-- The fields of a class's mask (R83): the bits of `m` in OP, none in a used field, all in the others. -/
def CmdClass.maskFields (c : CmdClass) (m : Byte) : Fields :=
  match c with
  | .n => ⟨m, .allOnes 2, .allOnes 2, .allOnes 4, .allOnes 8, .allOnes 8⟩
  | .i2 => ⟨m, .allOnes 2, .allOnes 2, .allOnes 4, 0, 0⟩
  | .i1 => ⟨m, .allOnes 2, .allOnes 2, .allOnes 4, 0, .allOnes 8⟩
  | .r2 => ⟨m, 0, 0, .allOnes 4, .allOnes 8, .allOnes 8⟩
  | .r2i => ⟨m, 0, 0, .allOnes 4, 0, .allOnes 8⟩
  | .r1i => ⟨m, 0, .allOnes 2, .allOnes 4, 0, .allOnes 8⟩

/-- A field record that a row allows: the row's OP, and 0 where its class must have 0 (R83). -/
def Opcode.Legal (op : Opcode) (f : Fields) : Prop := f.op = op.opByte ∧ op.cmdClass.zeroFields f = true

theorem wordOf_inj {f g : Fields} : wordOf f = wordOf g ↔ f = g :=
  ⟨fun h => by rw [← fieldsOf_wordOf f, h, fieldsOf_wordOf], congrArg wordOf⟩

/-- Under the mask of a class a word keeps the masked bits of its OP and nothing else exactly when its
must-be-0 fields are 0. -/
theorem CmdClass.and_mask_eq_iff (c : CmdClass) (m p : Byte) (f : Fields) :
    wordOf f &&& wordOf (c.maskFields m) = wordOf ⟨p, 0, 0, 0, 0, 0⟩ ↔
      f.op &&& m = p ∧ c.zeroFields f = true := by
  rw [Laws.RowMatch.wordOf_and, wordOf_inj]
  cases c <;> simp [maskFields, zeroFields, and_assoc, -BitVec.reduceAllOnes]

/-- The map's numbers are the OP values and the classes' masks (R83, R84). -/
theorem opcodeTable_numbers : ∀ r ∈ opcodeTable,
    r.mask = wordOf (r.op.cmdClass.maskFields 0xFF) ∧ r.pattern = wordOf (fieldsN r.op) := by decide

theorem opcodeTable_complete (op : Opcode) : ∃ r ∈ opcodeTable, r.op = op := by
  cases op <;> decide

/-- "the rows differ in OP" (R84). -/
theorem opcodeTable_opByte_inj : ∀ r ∈ opcodeTable, ∀ q ∈ opcodeTable, r.op.opByte = q.op.opByte → r = q := by
  decide

theorem Row.selects_iff {r : Row} (hr : r ∈ opcodeTable) (w : Word) :
    r.selects w = true ↔ r.op.Legal (fieldsOf w) := by
  obtain ⟨hmask, hpattern⟩ := opcodeTable_numbers r hr
  have hop : (fieldsOf w).op &&& 0xFF = (fieldsOf w).op := BitVec.and_allOnes
  have h := r.op.cmdClass.and_mask_eq_iff 0xFF r.op.opByte (fieldsOf w)
  rw [wordOf_fieldsOf, hop] at h
  rw [Row.selects, hmask, hpattern, beq_iff_eq]
  exact h

/-- At most one row selects a word (R84). -/
theorem Row.eq_of_selects {r q : Row} {w : Word} (hr : r ∈ opcodeTable) (hq : q ∈ opcodeTable)
    (hrw : r.selects w = true) (hqw : q.selects w = true) : r = q := by
  obtain ⟨hrop, -⟩ := (Row.selects_iff hr w).1 hrw
  obtain ⟨hqop, -⟩ := (Row.selects_iff hq w).1 hqw
  exact opcodeTable_opByte_inj r hr q hq (hrop.symm.trans hqop)

end Sys2Proof
end

section
/-! PROOFS. What the decoder answers (30_encoding.md R91), and the fields of a command and the command of
its fields as each other's inverse. -/

namespace Sys2Proof

theorem selects_of_find? {w : Word} {r : Row} (h : opcodeTable.find? (fun q => q.selects w) = some r) :
    r ∈ opcodeTable ∧ r.selects w = true :=
  ⟨List.mem_of_find?_eq_some h, List.find?_some (p := fun q : Row => q.selects w) h⟩

theorem decode_of_legal {op : Opcode} {w : Word} (h : op.Legal (fieldsOf w)) :
    decode w = some (op.build (fieldsOf w)) := by
  obtain ⟨r, hr, rfl⟩ := opcodeTable_complete op
  have hrw := (Row.selects_iff hr w).2 h
  cases hf : opcodeTable.find? fun q => q.selects w with
  | none => exact absurd hrw (List.find?_eq_none.1 hf r hr)
  | some q =>
    obtain ⟨hq, hqw⟩ := selects_of_find? hf
    rw [decode, hf, Row.eq_of_selects hq hr hqw hrw, Option.map_some]

theorem decode_wordOf {op : Opcode} {f : Fields} (h : op.Legal f) : decode (wordOf f) = some (op.build f) := by
  rw [← fieldsOf_wordOf f] at h
  rw [decode_of_legal h, fieldsOf_wordOf]

theorem legal_of_decode {w : Word} {i : Instr} (h : decode w = some i) :
    ∃ op : Opcode, op.Legal (fieldsOf w) ∧ op.build (fieldsOf w) = i := by
  obtain ⟨r, hf, hi⟩ := Option.map_eq_some_iff.1 h
  obtain ⟨hr, hrw⟩ := selects_of_find? hf
  exact ⟨r.op, (Row.selects_iff hr w).1 hrw, hi⟩

theorem decode_eq_none_iff {w : Word} : decode w = none ↔ ∀ op : Opcode, ¬ op.Legal (fieldsOf w) := by
  constructor
  · intro h op hop
    rw [decode_of_legal hop] at h
    contradiction
  · intro h
    cases hd : decode w with
    | none => rfl
    | some i =>
      obtain ⟨op, hop, -⟩ := legal_of_decode hd
      exact absurd hop (h op)

/-- Every command's word is selected by its row. -/
theorem Instr.rowMatch (i : Instr) : Laws.RowMatch.Statement i :=
  match i with
  | .nop => Laws.RowMatch.nop
  | .gfmul a b => Laws.RowMatch.gfmul a b
  | .sbox x => Laws.RowMatch.sbox x
  | .isbox y => Laws.RowMatch.isbox y
  | .mov vd vs => Laws.RowMatch.mov vd vs
  | .sub vd vs => Laws.RowMatch.sub vd vs
  | .isub vd vs => Laws.RowMatch.isub vd vs
  | .rot vd vs => Laws.RowMatch.rot vd vs
  | .irot vd vs => Laws.RowMatch.irot vd vs
  | .mix vd vs => Laws.RowMatch.mix vd vs
  | .imix vd vs => Laws.RowMatch.imix vd vs
  | .xor vd vs => Laws.RowMatch.xor vd vs
  | .xkey vd vs => Laws.RowMatch.xkey vd vs
  | .xrk vd vs r => Laws.RowMatch.xrk vd vs r
  | .rkey vd r => Laws.RowMatch.rkey vd r
  | .round vd vs r => Laws.RowMatch.round vd vs r
  | .iround vd vs r => Laws.RowMatch.iround vd vs r
  | .encb vd vs => Laws.RowMatch.encb vd vs
  | .decb vd vs => Laws.RowMatch.decb vd vs
  | .kdf => Laws.RowMatch.kdf
  | .cbcenc => Laws.RowMatch.cbcenc
  | .cbcdec => Laws.RowMatch.cbcdec
  | .valid => Laws.RowMatch.valid

theorem Instr.fields_legal (i : Instr) : i.opcode.Legal i.fields := by
  obtain ⟨r, hr, hop, hsel⟩ := i.rowMatch
  have h := (Row.selects_iff hr _).1 hsel
  rwa [hop, encode, fieldsOf_wordOf] at h

theorem Instr.build_fields (i : Instr) : i.opcode.build i.fields = i := by
  cases i <;> rfl

theorem Opcode.opcode_build (op : Opcode) (f : Fields) : (op.build f).opcode = op := by
  cases op <;> rfl

end Sys2Proof
end

section
/-! PROOFS. The operands of a source line and the fields they are written into (30_encoding.md R88). -/

namespace Sys2Proof

open Claims

/-- The operands a class of command reads from a field record, the destination first (R88). -/
def CmdClass.operands (c : CmdClass) (f : Fields) : List Operand :=
  match c with
  | .n => []
  | .i2 => [.imm f.immA.toNat, .imm f.immB.toNat]
  | .i1 => [.imm f.immA.toNat]
  | .r2 => [.reg f.vd.toNat, .reg f.vs.toNat]
  | .r2i => [.reg f.vd.toNat, .reg f.vs.toNat, .imm f.immA.toNat]
  | .r1i => [.reg f.vd.toNat, .imm f.immA.toNat]

theorem operandsOf_build (op : Opcode) (f : Fields) : operandsOf (op.build f) = op.cmdClass.operands f := by
  cases op <;> rfl

theorem operandsOf_eq (i : Instr) : operandsOf i = i.opcode.cmdClass.operands i.fields := by
  rw [← operandsOf_build, i.build_fields]

theorem operandFields_op (op : Opcode) (os : List Operand) : (operandFields op os).op = op.opByte := by
  unfold operandFields
  split <;> rfl

/-- Operands of the class's shape and in range are written into the class's used fields, and read back. -/
theorem operandFields_of_shape {op : Opcode} {c : CmdClass} {os : List Operand}
    (hc : c.operandShape os = true) (hos : os.all Operand.wellFormed = true) :
    c.zeroFields (operandFields op os) = true ∧ c.operands (operandFields op os) = os := by
  unfold CmdClass.operandShape at hc
  split at hc
  all_goals
    simp_all [Operand.wellFormed, operandFields, fieldsN, fieldsI, CmdClass.zeroFields, CmdClass.operands,
      Nat.mod_eq_of_lt]

theorem operandFields_legal {op : Opcode} {os : List Operand} (hc : op.cmdClass.operandShape os = true)
    (hos : os.all Operand.wellFormed = true) : op.Legal (operandFields op os) :=
  ⟨operandFields_op op os, (operandFields_of_shape hc hos).1⟩

/-- Fields that a row allows are those its operands are written into. -/
theorem operandFields_operands {op : Opcode} {c : CmdClass} {f : Fields} (hop : f.op = op.opByte)
    (hz : c.zeroFields f = true) : operandFields op (c.operands f) = f := by
  obtain ⟨o, vd, vs, rsv, a, b⟩ := f
  cases c <;> simp_all [CmdClass.operands, CmdClass.zeroFields, operandFields, fieldsN, fieldsI]

@[simp] theorem Operand.wellFormed_reg_toNat (n : BitVec 2) : (Operand.reg n.toNat).wellFormed = true :=
  decide_eq_true n.isLt

@[simp] theorem Operand.wellFormed_imm_toNat (b : Byte) : (Operand.imm b.toNat).wellFormed = true :=
  decide_eq_true b.isLt

theorem CmdClass.operands_wellFormed (c : CmdClass) (f : Fields) :
    c.operandShape (c.operands f) = true ∧ (c.operands f).all Operand.wellFormed = true := by
  cases c <;> simp [operandShape, operands]

theorem operandFields_operandsOf (i : Instr) : operandFields i.opcode (operandsOf i) = i.fields := by
  obtain ⟨hop, hz⟩ := i.fields_legal
  rw [operandsOf_eq, operandFields_operands hop hz]

/-- A command built from fields its row allows has these fields. -/
theorem Opcode.fields_build {op : Opcode} {f : Fields} (h : op.Legal f) : (op.build f).fields = f := by
  obtain ⟨hop, hz⟩ := h
  rw [← operandFields_operandsOf, opcode_build, operandsOf_build, operandFields_operands hop hz]

/-- A line the assembler takes stands for a row and operands of the row's shape, in range. -/
theorem SourceLine.expand_of_wellFormed {l : SourceLine} (h : l.wellFormed = true) :
    l.expand.1.cmdClass.operandShape l.expand.2 = true ∧ l.expand.2.all Operand.wellFormed = true := by
  obtain ⟨m, os⟩ := l
  obtain ⟨hos, hshape⟩ := Bool.and_eq_true_iff.1 h
  cases m with
  | cmd op => exact ⟨hshape, hos⟩
  | clr | whiten =>
    split at hshape
    all_goals simp_all [expand, Opcode.cmdClass, CmdClass.operandShape]

theorem assemble_eq_some {l : SourceLine} {w : Word} (h : assemble l = some w) :
    l.wellFormed = true ∧ w = wordOf (operandFields l.expand.1 l.expand.2) := by
  unfold assemble at h
  split at h
  · exact ⟨‹_›, (Option.some.inj h).symm⟩
  · contradiction

theorem assemble_of_wellFormed {l : SourceLine} (h : l.wellFormed = true) :
    assemble l = some (wordOf (operandFields l.expand.1 l.expand.2)) := if_pos h

theorem assemble_refuses {l : SourceLine} {o : Operand} (ho : o ∈ l.operands) (hw : o.wellFormed = false) :
    assemble l = none := by
  refine if_neg fun h => ?_
  obtain ⟨hos, -⟩ := Bool.and_eq_true_iff.1 h
  rw [List.all_eq_true.1 hos o ho] at hw
  contradiction

/-- A line the assembler takes that stands for a command and its operands becomes the command's word. -/
theorem assemble_eq_encode {l : SourceLine} {i : Instr} (hl : l.wellFormed = true)
    (hi : l.expand = (i.opcode, operandsOf i)) : assemble l = some (encode i) := by
  rw [assemble_of_wellFormed hl, hi, operandFields_operandsOf, encode]

/-- The line of a command becomes its word (R88). -/
theorem assemble_command (i : Instr) : assemble ⟨.cmd i.opcode, operandsOf i⟩ = some (encode i) := by
  obtain ⟨hshape, hos⟩ := i.opcode.cmdClass.operands_wellFormed i.fields
  rw [← operandsOf_eq] at hshape hos
  exact assemble_eq_encode (Bool.and_eq_true_iff.2 ⟨hos, hshape⟩) rfl

end Sys2Proof
end

section
/-! PROOFS. The illegal words of 30_encoding.md R85 are those that no row allows. -/

namespace Sys2Proof

open Claims

/-- The unassigned OP values are those of no row. -/
theorem unassignedOp_iff : ∀ b : Byte, UnassignedOp b.toNat ↔ ∀ r ∈ opcodeTable, r.op.opByte ≠ b := by
  unfold UnassignedOp
  decide +kernel

/-- The must-be-0 bits of an assigned OP value are its class's mask without OP. -/
theorem mustBeZero_opByte : ∀ r ∈ opcodeTable,
    mustBeZero r.op.opByte.toNat = wordOf (r.op.cmdClass.maskFields 0) := by decide

theorem and_mustBeZero_eq_zero_iff {r : Row} (hr : r ∈ opcodeTable) (w : Word) :
    w &&& mustBeZero r.op.opByte.toNat = 0 ↔ r.op.cmdClass.zeroFields (fieldsOf w) = true := by
  have h := r.op.cmdClass.and_mask_eq_iff 0 0 (fieldsOf w)
  rw [wordOf_fieldsOf, ← mustBeZero_opByte r hr] at h
  exact h.trans (and_iff_right BitVec.and_zero)

theorem illegalWord_iff {w : Word} : IllegalWord w ↔ ∀ op : Opcode, ¬ op.Legal (fieldsOf w) := by
  constructor
  · rintro (hun | hbits) op ⟨hop, hz⟩ <;> obtain ⟨r, hr, rfl⟩ := opcodeTable_complete op
    · exact (unassignedOp_iff _).1 hun r hr hop.symm
    · refine hbits ?_
      rw [show w.extractLsb' 0 8 = r.op.opByte from hop]
      exact (and_mustBeZero_eq_zero_iff hr w).2 hz
  · intro h
    by_contra hlegal
    obtain ⟨hassigned, hbits⟩ := not_or.1 hlegal
    rw [unassignedOp_iff] at hassigned
    push Not at hassigned hbits
    obtain ⟨r, hr, hop⟩ := hassigned
    rw [← hop] at hbits
    exact h r.op ⟨hop.symm, (and_mustBeZero_eq_zero_iff hr w).1 hbits⟩

end Sys2Proof
end

section
/-! PROOFS. A write of one block register (43_round.md), with the bookkeeping of a success. -/

namespace Sys2Proof.Machine

theorem wroteV_setV (s : State) (vd : VReg) (b : Block) : WroteV s (s.setV vd b).complete vd b := by
  refine ⟨?_, ?_, fun n hn => ?_⟩
  · simp [State.finish, State.setV]
  · simp
  · have hne : vd.val ≠ n.val := fun h => hn (Fin.ext h.symm)
    simp [Vector.getElem_set_ne, hne]

end Sys2Proof.Machine
end

section
/-! PROOFS. The obligations of 30_encoding.md. -/

namespace Sys2Proof

open Machine Claims

/-- Settles O1: a command's own fields are legal in its row, and building from them gives it back. -/
theorem decodeInvertsEncode : Obligations.DecodeInvertsEncode := by
  intro i
  rw [encode, decode_wordOf i.fields_legal, i.build_fields]

/-- Settles O2: legal fields are those of the command built from them; the rows differ in OP. -/
theorem decodingIsUnambiguous : Obligations.DecodingIsUnambiguous := by
  refine ⟨fun w i h => ?_, fun w r q hr hq => Row.eq_of_selects hr hq⟩
  obtain ⟨op, hop, rfl⟩ := legal_of_decode h
  rw [encode, Opcode.fields_build hop, wordOf_fieldsOf]

/-- Settles O3: the words that no row allows, and the core's turn on one of them. -/
theorem illegalWordRaisesIllegalCmd : Obligations.IllegalWordRaisesIllegalCmd := by
  have hnone : ∀ w : Word, decode w = none ↔ IllegalWord w := fun w =>
    decode_eq_none_iff.trans illegalWord_iff.symm
  refine ⟨hnone, fun w s rest hw hp hc => ?_⟩
  rw [step_core hc]
  simp [coreTurn, hp, (hnone w).2 hw, State.finish, State.setInbox]

/-- Settles O5, by the operands read back from the fields they were written into. -/
theorem assembledLinesDecode : Obligations.AssembledLinesDecode := by
  refine ⟨fun l w h => ?_, assemble_command, ?_⟩
  · obtain ⟨hl, rfl⟩ := assemble_eq_some h
    obtain ⟨hshape, hos⟩ := l.expand_of_wellFormed hl
    refine ⟨_, decode_wordOf (operandFields_legal hshape hos), Opcode.opcode_build _ _, ?_⟩
    rw [operandsOf_build, (operandFields_of_shape hshape hos).2]
  · rintro l ⟨n, ⟨hmem, hn⟩ | ⟨hmem, hn⟩⟩
    · exact assemble_refuses hmem (decide_eq_false (Nat.not_lt.2 hn))
    · exact assemble_refuses hmem (decide_eq_false (Nat.not_lt.2 hn))

/-- Settles O4, by running the decoder on the ten words. -/
theorem wordsOfTheMapDecode : Obligations.WordsOfTheMapDecode := by
  unfold Obligations.WordsOfTheMapDecode
  decide

/-- Settles O6: each pseudo-instruction is the line of its expansion, whose command writes V[D] only. -/
theorem pseudoInstructions : Obligations.PseudoInstructions := by
  intro d
  have hline : ∀ m, m = .clr ∨ m = .whiten → (SourceLine.mk m [.reg d.val]).wellFormed = true := by
    rintro _ (rfl | rfl) <;> simp [SourceLine.wellFormed, Operand.wellFormed]
  refine ⟨assemble_eq_encode (hline _ (.inl rfl)) rfl, assemble_eq_encode (hline _ (.inr rfl)) rfl,
    fun s => ⟨?_, ?_⟩⟩
  · have hzero : exec (.xor d d) s = .next (s.setV d zeroBlock).complete :=
      congrArg (fun b => Host.Outcome.next (s.setV d b).complete) (xorBlock_self (s.getV d))
    exact ⟨_, hzero, wroteV_setV s d zeroBlock⟩
  · exact ⟨_, _, rfl, wroteV_setV s d (xorBlock (s.getV d) s.key), fun i => xorBlock_get ..⟩

end Sys2Proof
end

section
/-! PROOFS. The obligation of 40_control.md: NOP's word, and the bookkeeping of a success (R266). -/

namespace Sys2Proof

open Machine

theorem Machine.State.complete_eq_update (s : State) :
    s.complete = { s with pend := none, done := true, errcode := .ok } := by
  simp [State.finish]

theorem Opcode.opByte_injective : Function.Injective opByte := by
  intro a b h
  obtain ⟨r, hr, rfl⟩ := opcodeTable_complete a
  obtain ⟨q, hq, rfl⟩ := opcodeTable_complete b
  rw [opcodeTable_opByte_inj r hr q hq h]

theorem encode_nop : encode .nop = 0 := by decide

/-- NOP is the only row with OP 0x00 (R84). -/
theorem eq_nop_of_decode {w : Word} {i : Instr} (hop : w.extractLsb' 0 8 = 0) (h : decode w = some i) :
    i = .nop := by
  obtain ⟨op, ⟨hrow, -⟩, rfl⟩ := legal_of_decode h
  obtain rfl : op = .nop := Opcode.opByte_injective (hrow.symm.trans hop)
  rfl

/-- Settles O7: a word with OP 0x00 that decodes is NOP's, and the word of a command is unique. -/
theorem nopOnlyCompletes : Obligations.NopOnlyCompletes := by
  obtain ⟨hword, -⟩ := decodingIsUnambiguous
  refine ⟨encode_nop ▸ decodeInvertsEncode .nop, fun w hop hw => ?_, fun s => ?_⟩
  · refine Option.eq_none_iff_forall_ne_some.2 fun i h => hw ?_
    obtain rfl := eq_nop_of_decode hop h
    rw [← hword w _ h, encode_nop]
  · exact congrArg Host.Outcome.next s.complete_eq_update

end Sys2Proof
end

section
/-! PROOFS. The polynomial over GF(2) that a byte stands for (41_field.md R110), and what the byte
operations of the loop of R111 do to it. -/

namespace Sys2Proof.Machine

open Polynomial

/-- "the polynomial x7·X^7 + ... + x1·X + x0 over GF(2)" (R110). -/
noncomputable def bytePoly (a : Byte) : (ZMod 2)[X] :=
  ∑ i : Fin 8, if a.getLsbD i then X ^ i.val else 0

@[simp] theorem bytePoly_zero : bytePoly 0#8 = 0 := by simp [bytePoly]

@[simp] theorem bytePoly_one : bytePoly 1#8 = 1 := by simp [bytePoly]

theorem bytePoly_gfFeedback : bytePoly gfFeedback = 1 + X + X ^ 3 + X ^ 4 := by
  simp [bytePoly, gfFeedback, Fin.sum_univ_eight]

theorem coeff_bytePoly (a : Byte) (n : Nat) : (bytePoly a).coeff n = if a.getLsbD n then 1 else 0 := by
  rw [bytePoly, Fin.sum_univ_eq_sum_range (fun i => if a.getLsbD i then X ^ i else 0) 8, finsetSum_coeff,
    Finset.sum_eq_single n]
  · split <;> simp
  · intro i _ hi
    split <;> simp [coeff_X_pow, hi.symm]
  · intro hn
    simp [BitVec.getLsbD_of_ge a n (by simpa using hn)]

theorem degree_bytePoly_lt (a : Byte) : (bytePoly a).degree < 8 :=
  (degree_lt_iff_coeff_zero _ 8).2 fun n hn => by simp [coeff_bytePoly, BitVec.getLsbD_of_ge a n hn]

theorem bytePoly_injective : Function.Injective bytePoly := by
  intro a b h
  refine BitVec.eq_of_getLsbD_eq fun n _ => ?_
  have hn := congrArg (fun p => p.coeff n) h
  simp only [coeff_bytePoly] at hn
  revert hn
  cases a.getLsbD n <;> cases b.getLsbD n <;> decide

/-- "coefficients added modulo 2 (exclusive-or)" (R110). -/
theorem bytePoly_xor (a b : Byte) : bytePoly (a ^^^ b) = bytePoly a + bytePoly b := by
  ext n
  simp only [coeff_add, coeff_bytePoly, BitVec.getLsbD_xor]
  cases a.getLsbD n <;> cases b.getLsbD n <;> decide

/-- `b <- b >> 1` divides by X; the bit that falls out is the constant term. -/
theorem bytePoly_eq_shiftRight (b : Byte) :
    bytePoly b = X * bytePoly (b >>> 1) + if b.getLsbD 0 then 1 else 0 := by
  rw [bytePoly, bytePoly, Fin.sum_univ_succ (n := 7), Fin.sum_univ_castSucc (n := 7), mul_add,
    Finset.mul_sum, add_comm]
  simp [← pow_succ', Nat.add_comm 1]

/-- `a << 1` multiplies by X, less the term X^8 where bit 7 falls out. -/
theorem X_mul_bytePoly (a : Byte) :
    X * bytePoly a = bytePoly (a <<< 1) + if a.getLsbD 7 then X ^ 8 else 0 := by
  have hlt : ∀ i : Fin 7, i.val + 1 < 8 := fun i => by omega
  rw [bytePoly, bytePoly, Fin.sum_univ_castSucc, Fin.sum_univ_succ (n := 7), mul_add, Finset.mul_sum]
  simp [← pow_succ', hlt, -BitVec.getLsbD_eq_getElem]

end Sys2Proof.Machine
end

section
/-! PROOFS. The loop of R111 multiplies in GF(2)[X] modulo X^8 + X^4 + X^3 + X + 1 (41_field.md R110),
where each byte has a residue of its own. -/

namespace Sys2Proof.Machine

open Polynomial AdjoinRoot

/-- The modulus of R110. -/
noncomputable def gfModulus : (ZMod 2)[X] := X ^ 8 + X ^ 4 + X ^ 3 + X + 1

theorem degree_gfModulus : gfModulus.degree = 8 := by
  unfold gfModulus
  compute_degree!

theorem gfModulus_eq_sub_gfFeedback : gfModulus = X ^ 8 - bytePoly gfFeedback := by
  rw [bytePoly_gfFeedback, CharTwo.sub_eq_add, gfModulus]
  ring

/-- The class of a byte's polynomial modulo R110's. -/
noncomputable def residue (a : Byte) : AdjoinRoot gfModulus := mk gfModulus (bytePoly a)

/-- Two polynomials of degree below 8 that are congruent modulo one of degree 8 are equal. -/
theorem residue_injective : Function.Injective residue := by
  intro a b h
  refine bytePoly_injective (sub_eq_zero.1 (eq_zero_of_dvd_of_degree_lt (mk_eq_mk.1 h) ?_))
  rw [degree_gfModulus]
  exact (degree_sub_le _ _).trans_lt (max_lt (degree_bytePoly_lt a) (degree_bytePoly_lt b))

@[simp] theorem residue_zero : residue 0#8 = 0 := by simp [residue]

@[simp] theorem residue_one : residue 1#8 = 1 := by simp [residue]

@[simp] theorem residue_xor (a b : Byte) : residue (a ^^^ b) = residue a + residue b := by
  simp [residue, bytePoly_xor]

theorem root_pow_eight : root gfModulus ^ 8 = residue gfFeedback := by
  rw [← mk_X, ← map_pow]
  exact mk_eq_mk.2 gfModulus_eq_sub_gfFeedback.dvd

theorem residue_gfDouble (a : Byte) : residue (gfDouble a) = root gfModulus * residue a := by
  have h := congrArg (mk gfModulus) (X_mul_bytePoly a)
  rw [map_mul, map_add, mk_X] at h
  rw [residue, residue, h, gfDouble]
  split
  · rw [map_pow, mk_X, root_pow_eight]
    exact residue_xor _ _
  · simp

theorem residue_eq_shiftRight (b : Byte) :
    residue b = root gfModulus * residue (b >>> 1) + if b.getLsbD 0 then 1 else 0 := by
  rw [residue, bytePoly_eq_shiftRight, residue]
  split <;> simp

/-- `n` turns add to `p` the product of `a` and a multiplier of `n` bits. -/
theorem residue_gfLoop (n : Nat) : ∀ a b p : Byte, b.toNat < 2 ^ n →
    residue (gfLoop n a b p) = residue p + residue a * residue b := by
  induction n with
  | zero =>
    intro a b p hb
    obtain rfl : b = 0 := BitVec.eq_of_toNat_eq (by simpa using hb)
    simp [gfLoop]
  | succ n ih =>
    intro a b p hb
    have hshift : (b >>> 1).toNat < 2 ^ n := by
      rw [BitVec.toNat_ushiftRight, Nat.shiftRight_one]
      omega
    rw [gfLoop, ih _ _ _ hshift, residue_gfDouble, residue_eq_shiftRight b]
    split
    · rw [residue_xor]
      ring
    · ring

@[simp] theorem residue_gfmul (a b : Byte) : residue (gfmul a b) = residue a * residue b := by
  rw [gfmul, residue_gfLoop 8 a b 0 b.isLt]
  simp

end Sys2Proof.Machine
end

section
/-! PROOFS. The laws of the field (41_field.md R113). The ring laws are those of the residues. For the
inverse: `y^256 = y` for every residue, so `a^255` is idempotent; it is 1 unless `a` is 0. -/

namespace Sys2Proof.Machine

open AdjoinRoot

theorem gfmul_comm (a b : Byte) : gfmul a b = gfmul b a := residue_injective (by simp [mul_comm])

theorem gfmul_assoc (a b c : Byte) : gfmul (gfmul a b) c = gfmul a (gfmul b c) :=
  residue_injective (by simp [mul_assoc])

theorem gfmul_xor (a b c : Byte) : gfmul a (b ^^^ c) = gfmul a b ^^^ gfmul a c :=
  residue_injective (by simp [mul_add])

theorem one_gfmul (a : Byte) : gfmul 1 a = a := residue_injective (by simp)

theorem zero_gfmul (a : Byte) : gfmul 0 a = 0 := residue_injective (by simp)

theorem residue_iterate_gfDouble (n : Nat) : residue (gfDouble^[n] 1#8) = root gfModulus ^ n := by
  induction n with
  | zero => simp
  | succ n ih => rw [Function.iterate_succ_apply', residue_gfDouble, ih, pow_succ']

/-- The order of X is 51, a divisor of 255. -/
theorem root_pow_51 : root gfModulus ^ 51 = 1 := by
  rw [← residue_iterate_gfDouble, show gfDouble^[51] 1#8 = 1#8 by decide +kernel, residue_one]

theorem root_pow_256 : root gfModulus ^ 2 ^ 8 = root gfModulus := by
  rw [show 2 ^ 8 = 51 * 5 + 1 by rfl, pow_succ, pow_mul, root_pow_51, one_pow, one_mul]

/-- Squaring is additive in characteristic 2, so that eight squarings fix every residue with X. -/
theorem residue_pow_256 (a : Byte) : residue a ^ 2 ^ 8 = residue a := by
  rw [residue, ← map_pow, bytePoly, sum_pow_char_pow, map_sum, map_sum]
  refine Finset.sum_congr rfl fun i _ => ?_
  split
  · rw [map_pow, map_pow, mk_X, pow_right_comm, root_pow_256]
  · simp

theorem exists_residue_eq_pow (a : Byte) (n : Nat) : ∃ b, residue b = residue a ^ n := by
  induction n with
  | zero => exact ⟨1#8, by simp⟩
  | succ n ih =>
    obtain ⟨b, hb⟩ := ih
    exact ⟨gfmul b a, by rw [residue_gfmul, hb, pow_succ]⟩

theorem exists_gfmul_gfmul_self (a : Byte) : ∃ b, gfmul (gfmul a b) a = a := by
  obtain ⟨b, hb⟩ := exists_residue_eq_pow a 254
  refine ⟨b, residue_injective ?_⟩
  rw [residue_gfmul, residue_gfmul, hb, ← pow_succ', ← pow_succ]
  exact residue_pow_256 a

theorem eq_zero_or_one_of_gfmul_self : ∀ a : Byte, gfmul a a = a → a = 0 ∨ a = 1 := by decide +kernel

theorem exists_gfmul_eq_one {a : Byte} (ha : a ≠ 0) : ∃ b, gfmul a b = 1 := by
  obtain ⟨b, hb⟩ := exists_gfmul_gfmul_self a
  have hidem : gfmul (gfmul a b) (gfmul a b) = gfmul a b := by rw [← gfmul_assoc, hb]
  rcases eq_zero_or_one_of_gfmul_self _ hidem with h0 | h1
  · rw [h0, zero_gfmul] at hb
    exact absurd hb.symm ha
  · exact ⟨b, h1⟩

theorem gfmul_right_unique {a b c : Byte} (hb : gfmul a b = 1) (hc : gfmul a c = 1) : c = b :=
  calc c = gfmul (gfmul a b) c := by rw [hb, one_gfmul]
    _ = gfmul b (gfmul a c) := by rw [gfmul_comm a b, gfmul_assoc]
    _ = b := by rw [hc, gfmul_comm, one_gfmul]

end Sys2Proof.Machine
end

section
/-! PROOFS. The obligations of 41_field.md, with the word of a command of immediates (30_encoding.md R81)
and the write of RESULT. -/

namespace Sys2Proof

open Machine

/-- Class I2, and class I1 where `b` is 0. -/
theorem wordOf_fieldsI (op : Opcode) (a b : Byte) :
    wordOf (fieldsI op a b) = b ++ a ++ ((0 : BitVec 8) ++ op.opByte) := by
  refine BitVec.eq_of_toNat_eq ?_
  simp only [wordOf, fieldsI, BitVec.toNat_append]
  simp [← Nat.shiftLeft_add]

theorem Machine.wroteResult_setResult (s : State) (x : Word) : WroteResult s (s.setResult x).complete x :=
  (s.setResult x).complete_eq_update

/-- Settles O8: the product and `gfmul a b` have one residue, so the modulus divides their difference. -/
theorem gfmulIsPolynomialProduct : Obligations.GfmulIsPolynomialProduct := by
  intro a b
  obtain ⟨q, hq⟩ : gfModulus ∣ bytePoly a * bytePoly b - bytePoly (gfmul a b) :=
    AdjoinRoot.mk_eq_mk.1 ((map_mul _ _ _).trans (residue_gfmul a b).symm)
  rw [mul_comm gfModulus] at hq
  exact ⟨q, sub_eq_iff_eq_add'.1 hq⟩

/-- Settles O9: the ring laws come from the residues, the inverse of `a` is `a^254`. -/
theorem gfmulFieldLaws : Obligations.GfmulFieldLaws := by
  refine ⟨gfmul_comm, gfmul_assoc, gfmul_xor, one_gfmul, zero_gfmul, fun a ha => ?_⟩
  obtain ⟨b, hb⟩ := exists_gfmul_eq_one ha
  exact ⟨b, hb, fun c hc => gfmul_right_unique hb hc⟩

/-- Settles O10: the word is the command's own, and the command is one write of RESULT. -/
theorem gfmulCommand : Obligations.GfmulCommand := by
  intro a b
  refine ⟨?_, fun s => ⟨_, rfl, wroteResult_setResult s _⟩⟩
  rw [← decodeInvertsEncode (.gfmul a b)]
  exact congrArg decode (wordOf_fieldsI .gfmul a b).symm

end Sys2Proof
end

section
/-! PROOFS. The state matrix cell by cell (00_scope.md R8): a block is its 16 cells, and each round layer
of 43_round.md says what one cell becomes. -/

namespace Sys2Proof.Machine

theorem columnOf_ext {a b : Block} (h : ∀ c k, columnOf a c k = columnOf b c k) : a = b := by
  ext i hi : 1
  have hcell := h ⟨i % 4, by omega⟩ ⟨i / 4, by omega⟩
  simpa only [columnOf, Nat.div_add_mod] using hcell

theorem rowMajor_div (k c : Fin 4) : (4 * k.val + c.val) / 4 = k := by omega

theorem rowMajor_mod (k c : Fin 4) : (4 * k.val + c.val) % 4 = c := by omega

/-- Row `k` moves left by `k` positions (R140). -/
@[simp] theorem columnOf_rotBlock (b : Block) (c k : Fin 4) :
    columnOf (rotBlock b) c k = columnOf b (c + k) k := by
  simp only [columnOf, rotBlock_get, rowMajor_div, rowMajor_mod, Fin.val_add]

/-- Row `k` moves right by `k` positions (R141). -/
@[simp] theorem columnOf_invRotBlock (b : Block) (c k : Fin 4) :
    columnOf (invRotBlock b) c k = columnOf b (c - k) k := by
  have hsub : (c - k).val = (c.val + 4 - k.val) % 4 := by
    rw [Fin.val_sub]
    congr 1
    omega
  simp only [columnOf, invRotBlock_get, rowMajor_div, rowMajor_mod, hsub]

@[simp] theorem columnOf_mulColumns (m : Fin 4 → Fin 4 → Byte) (b : Block) (c k : Fin 4) :
    columnOf (mulColumns m b) c k = gfDot (m k) (columnOf b c) := by
  rw [columnOf, mulColumns_get]
  simp only [rowMajor_div, rowMajor_mod]

end Sys2Proof.Machine
end

section
/-! PROOFS. The substitutions and the row rotations undo each other (42_substitution.md R124,
43_round.md R141). -/

namespace Sys2Proof.Machine

/-- A left inverse of a map of a finite type to itself is its right inverse (R124). -/
theorem sbox_invSbox (P : Params) (x : Byte) : P.sbox (P.invSbox x) = x :=
  have hleft : Function.LeftInverse P.invSbox P.sbox := P.invSbox_sbox
  hleft.rightInverse_of_surjective (Finite.surjective_of_injective hleft.injective) x

theorem invSubBlock_subBlock (P : Params) (b : Block) : invSubBlock P (subBlock P b) = b := by
  ext i hi : 1
  simp [P.invSbox_sbox]

theorem subBlock_invSubBlock (P : Params) (b : Block) : subBlock P (invSubBlock P b) = b := by
  ext i hi : 1
  simp [sbox_invSbox]

theorem invRotBlock_rotBlock (b : Block) : invRotBlock (rotBlock b) = b :=
  columnOf_ext fun c k => by simp

theorem rotBlock_invRotBlock (b : Block) : rotBlock (invRotBlock b) = b :=
  columnOf_ext fun c k => by simp

/-- Row `k` has moved by `4 * k` positions, a multiple of its length. -/
theorem rotBlock_four (b : Block) : rotBlock (rotBlock (rotBlock (rotBlock b))) = b := by
  have hfour : ∀ c k : Fin 4, c + k + k + k + k = c := by decide
  exact columnOf_ext fun c k => by simp [hfour]

end Sys2Proof.Machine
end

section
/-! PROOFS. The column mixes undo each other (43_round.md R143). `mulColumns` is a product of matrices over
the commutative ring of residues, where a left inverse of a square matrix is also its right inverse. -/

namespace Sys2Proof.Machine

/-- The matrix over the residues whose entry in row `r`, column `c` is that of `m r c`. -/
noncomputable def residueMatrix (m : Fin 4 → Fin 4 → Byte) : Matrix (Fin 4) (Fin 4) (AdjoinRoot gfModulus) :=
  Matrix.of fun r c => residue (m r c)

/-- The state matrix of a block (R8), over the residues. -/
noncomputable def stateMatrix (b : Block) : Matrix (Fin 4) (Fin 4) (AdjoinRoot gfModulus) :=
  residueMatrix fun r c => columnOf b c r

theorem stateMatrix_injective : Function.Injective stateMatrix := fun _ _ h =>
  columnOf_ext fun c k => residue_injective (congrFun (congrFun h k) c)

theorem residue_gfDot (a b : Fin 4 → Byte) : residue (gfDot a b) = ∑ k, residue (a k) * residue (b k) := by
  simp [gfDot, Fin.sum_univ_four]

theorem stateMatrix_mulColumns (m : Fin 4 → Fin 4 → Byte) (b : Block) :
    stateMatrix (mulColumns m b) = residueMatrix m * stateMatrix b := by
  ext r c
  simp [stateMatrix, residueMatrix, Matrix.mul_apply, residue_gfDot]

theorem mulColumns_cancel {m n : Fin 4 → Fin 4 → Byte} (h : residueMatrix m * residueMatrix n = 1)
    (b : Block) : mulColumns m (mulColumns n b) = b :=
  stateMatrix_injective <| by
    rw [stateMatrix_mulColumns, stateMatrix_mulColumns, ← mul_assoc, h, one_mul]

/-- "`INV_MIX x MIX = I` over GF(2^8)" (R4). -/
theorem residueMatrix_invMix_mul_mix (P : Params) : residueMatrix P.invMix * residueMatrix P.mix = 1 := by
  ext r c
  have h := congrArg residue (P.invMix_mix r c)
  rw [residue_gfDot, apply_ite residue] at h
  simpa [residueMatrix, Matrix.mul_apply, Matrix.one_apply] using h

theorem invMixBlock_mixBlock (P : Params) (b : Block) : invMixBlock P (mixBlock P b) = b :=
  mulColumns_cancel (residueMatrix_invMix_mul_mix P) b

theorem mixBlock_invMixBlock (P : Params) (b : Block) : mixBlock P (invMixBlock P b) = b :=
  mulColumns_cancel (mul_eq_one_comm.1 (residueMatrix_invMix_mul_mix P)) b

end Sys2Proof.Machine
end

section
/-! PROOFS. The words of the commands of immediates and of registers (30_encoding.md R81), and the commands
that write one block register. -/

namespace Sys2Proof

open Machine Claims

theorem decode_immWord {i : Instr} {op : Opcode} {a b : Byte} {low : BitVec 16}
    (hi : i.fields = fieldsI op a b) (hlow : (0 : BitVec 8) ++ op.opByte = low) :
    decode (b ++ a ++ low) = some i := by
  rw [← hlow, ← decodeInvertsEncode i, encode, hi]
  exact congrArg decode (wordOf_fieldsI op a b).symm

theorem vregField_eq_ofNat (v : VReg) : vregField v = BitVec.ofNat 2 v.val :=
  (BitVec.ofNat_toNat 2 (vregField v)).symm

theorem decode_regWord {i : Instr} {vd vs : VReg} {r : Byte} (hi : i.fields = fieldsR i.opcode vd vs r) :
    decode (regWord i.opcode.opByte vd vs r) = some i := by
  have hword : regWord i.opcode.opByte vd vs r = encode i := by
    rw [encode, hi, regWord, ← vregField_eq_ofNat, ← vregField_eq_ofNat]
    rfl
  rw [hword]
  exact decodeInvertsEncode i

/-- A command of registers that is one write of `V[vd]` and completes. -/
theorem blockCommand_of_setV {i : Instr} {vd vs : VReg} {r : Byte} {val : State → Fin 16 → Byte}
    (block : State → Block) (hi : i.fields = fieldsR i.opcode vd vs r)
    (hexec : ∀ s, exec i s = .next (s.setV vd (block s)).complete)
    (hval : ∀ s (k : Fin 16), (block s)[k] = val s k) : BlockCommand i.opcode.opByte vd vs r i val :=
  ⟨decode_regWord hi, fun s => ⟨_, block s, hexec s, wroteV_setV s vd (block s), hval s⟩⟩

end Sys2Proof
end

section
/-! PROOFS. The obligations of 42_substitution.md. -/

namespace Sys2Proof

open Machine Claims

/-- Settles O15: S-box and mix have left inverses by R4, which finiteness and commutativity make two-sided;
the rotations move the columns of row `k` by `k` in arithmetic modulo 4. -/
theorem layersInvert : Obligations.LayersInvert := fun P =>
  ⟨P.invSbox_sbox, sbox_invSbox P, fun b =>
    ⟨invSubBlock_subBlock P b, subBlock_invSubBlock P b, invRotBlock_rotBlock b, rotBlock_invRotBlock b,
      rotBlock_four b, invMixBlock_mixBlock P b, mixBlock_invMixBlock P b⟩⟩

/-- Settles O11: each word is the command's own, and each command is one write of RESULT. -/
theorem sboxCommands : Obligations.SboxCommands := fun x =>
  ⟨decode_immWord (op := .sbox) rfl (by decide), decode_immWord (op := .isbox) rfl (by decide), fun s =>
    ⟨⟨_, rfl, wroteResult_setResult s _⟩, ⟨_, rfl, wroteResult_setResult s _⟩⟩⟩

/-- Settles O12: each command is one write of `V[vd]`, whose block is computed from the state before. -/
theorem substitutionCommands : Obligations.SubstitutionCommands := fun vd vs =>
  ⟨blockCommand_of_setV (i := .sub vd vs) (fun s => subBlock Config.params (s.getV vs)) rfl
      (fun _ => rfl) (fun _ k => subBlock_get k.isLt ..),
    blockCommand_of_setV (i := .isub vd vs) (fun s => invSubBlock Config.params (s.getV vs)) rfl
      (fun _ => rfl) (fun _ k => invSubBlock_get k.isLt ..)⟩

end Sys2Proof
end

section
/-! PROOFS. The round and its inverse (43_round.md R152, R153): each layer is taken off again, the last one
first. -/

namespace Sys2Proof.Machine

theorem invRoundBlock_roundBlock (P : Params) (b k : Block) (r : Byte) :
    invRoundBlock P (roundBlock P b k r) k r = b := by
  simp only [invRoundBlock, roundBlock, xorBlock_cancel]
  by_cases hr : r = lastRound
  · simp only [if_pos hr, invRotBlock_rotBlock, invSubBlock_subBlock]
  · simp only [if_neg hr, invMixBlock_mixBlock, invRotBlock_rotBlock, invSubBlock_subBlock]

theorem roundBlock_invRoundBlock (P : Params) (b k : Block) (r : Byte) :
    roundBlock P (invRoundBlock P b k r) k r = b := by
  simp only [roundBlock, invRoundBlock, subBlock_invSubBlock, rotBlock_invRotBlock]
  by_cases hr : r = lastRound
  · simp only [if_pos hr, xorBlock_cancel]
  · simp only [if_neg hr, mixBlock_invMixBlock, xorBlock_cancel]

end Sys2Proof.Machine
end

section
/-! PROOFS. The obligations of 43_round.md. -/

namespace Sys2Proof

open Machine Claims

/-- Settles O19: the key layer cancels, the mix of both rounds is left out for the same `r`, and every
layer below has a two-sided inverse. -/
theorem roundInverse : Obligations.RoundInverse := fun P b k r =>
  ⟨invRoundBlock_roundBlock P b k r, roundBlock_invRoundBlock P b k r⟩

/-- Settles O13: each command is one write of `V[vd]`, whose block is the source's with its rows rotated;
`cell b r j` is entry `r` of column `j`. -/
theorem rotateRowsCommands : Obligations.RotateRowsCommands := fun vd vs =>
  ⟨decode_regWord (i := .rot vd vs) rfl, decode_regWord (i := .irot vd vs) rfl, fun s =>
    ⟨⟨_, _, rfl, wroteV_setV s vd (rotBlock (s.getV vs)), fun r j => columnOf_rotBlock _ j r⟩,
      ⟨_, _, rfl, wroteV_setV s vd (invRotBlock (s.getV vs)), fun r j => columnOf_invRotBlock _ j r⟩⟩⟩

/-- Settles O14: each command is one write of `V[vd]`, whose columns are the source's times the matrix;
`gfDot` of a row and a column is the xor of the four products. -/
theorem mixColumnsCommands : Obligations.MixColumnsCommands := fun vd vs =>
  ⟨decode_regWord (i := .mix vd vs) rfl, decode_regWord (i := .imix vd vs) rfl, fun s =>
    ⟨⟨_, _, rfl, wroteV_setV s vd (mixBlock Config.params (s.getV vs)), fun r c =>
        columnOf_mulColumns Config.params.mix _ c r⟩,
      ⟨_, _, rfl, wroteV_setV s vd (invMixBlock Config.params (s.getV vs)), fun r c =>
        columnOf_mulColumns Config.params.invMix _ c r⟩⟩⟩

/-- Settles O16: each command is one write of `V[vd]`, whose block is computed from the state before. -/
theorem moveAndXorCommands : Obligations.MoveAndXorCommands := fun vd vs =>
  ⟨blockCommand_of_setV (i := .mov vd vs) (fun s => s.getV vs) rfl (fun _ => rfl) (fun _ _ => rfl),
    blockCommand_of_setV (i := .xor vd vs) (fun s => xorBlock (s.getV vd) (s.getV vs)) rfl
      (fun _ => rfl) (fun _ k => xorBlock_get k.isLt ..),
    blockCommand_of_setV (i := .xkey vd vs) (fun s => xorBlock (s.getV vs) s.key) rfl
      (fun _ => rfl) (fun _ k => xorBlock_get k.isLt ..)⟩

/-- Settles O18: each command is one write of `V[vd]` with the round of R152 or the inverse
round of R153, in which `lastRound` is the byte 2. -/
theorem roundCommands : Obligations.RoundCommands := fun vd vs r =>
  ⟨decode_regWord (i := .round vd vs r) rfl, decode_regWord (i := .iround vd vs r) rfl, fun s =>
    ⟨⟨_, rfl, wroteV_setV s vd (roundBlock Config.params (s.getV vs) s.key r)⟩,
      ⟨_, rfl, wroteV_setV s vd (invRoundBlock Config.params (s.getV vs) s.key r)⟩⟩⟩

end Sys2Proof
end

section
/-! PROOFS. The order of identifiers (44_key_derivation.md R180): by the first index where they differ, and
as the library's order of lists, so that it is total and antisymmetric. -/

namespace Sys2Proof.Machine

/-- "at the first index i where they differ `A[i] < B[i]` as unsigned bytes" (R180). -/
def SmallerAtFirstDifference (a b : Bytes) : Prop :=
  ∃ (p : Bytes) (x y : Byte) (u w : Bytes), a = p ++ x :: u ∧ b = p ++ y :: w ∧ x.toNat < y.toNat

theorem SmallerAtFirstDifference.cons {a b : Bytes} (h : SmallerAtFirstDifference a b) (c : Byte) :
    SmallerAtFirstDifference (c :: a) (c :: b) := by
  obtain ⟨p, x, y, u, w, rfl, rfl, hxy⟩ := h
  exact ⟨c :: p, x, y, u, w, rfl, rfl, hxy⟩

theorem lexLe_cons_self (c : Byte) (a b : Bytes) : lexLe (c :: a) (c :: b) = lexLe a b := if_pos rfl

/-- A common beginning does not count. -/
theorem lexLe_append_left (p a b : Bytes) : lexLe (p ++ a) (p ++ b) = lexLe a b := by
  induction p with
  | nil => rfl
  | cons c p ih => exact (lexLe_cons_self c _ _).trans ih

theorem lexLe_of_isPrefix {a b : Bytes} (h : a <+: b) : lexLe a b = true := by
  obtain ⟨t, rfl⟩ := h
  have hnil := lexLe_append_left a [] t
  rwa [List.append_nil] at hnil

theorem lexLe_of_smallerAtFirstDifference {a b : Bytes} (h : SmallerAtFirstDifference a b) :
    lexLe a b = true := by
  obtain ⟨p, x, y, u, w, rfl, rfl, hxy⟩ := h
  have hne : x ≠ y := fun heq => hxy.ne (congrArg BitVec.toNat heq)
  rw [lexLe_append_left, lexLe, if_neg hne]
  exact decide_eq_true hxy

theorem isPrefix_or_smallerAtFirstDifference {a b : Bytes} (h : lexLe a b = true) :
    a <+: b ∨ SmallerAtFirstDifference a b := by
  fun_induction lexLe a b with
  | case1 b => exact .inl List.nil_prefix
  | case2 a as => contradiction
  | case3 as b bs ih =>
    exact (ih h).imp (List.cons_prefix_cons.2 ⟨rfl, ·⟩) (·.cons b)
  | case4 a as b bs hne => exact .inr ⟨[], a, b, as, bs, rfl, rfl, of_decide_eq_true h⟩

/-- The order of R180 is the library's lexicographic order of lists. -/
theorem lexLe_iff_le (a b : Bytes) : lexLe a b = true ↔ a ≤ b := by
  fun_induction lexLe a b with
  | case1 b => simp
  | case2 a as => simp
  | case3 as b bs ih => simp [List.cons_le_cons_iff, ih]
  | case4 a as b bs hne => simp [List.cons_le_cons_iff, hne]

theorem sortedPair_of_lexLe {a b : Bytes} (h : lexLe a b = true) : sortedPair a b = (a, b) := if_pos h

theorem sortedPair_of_not_lexLe {a b : Bytes} (h : lexLe a b = false) : sortedPair a b = (b, a) :=
  if_neg (Bool.eq_false_iff.1 h)

/-- Of two identifiers one is not above the other; if neither is above the other, they are equal. -/
theorem sortedPair_comm (a b : Bytes) : sortedPair a b = sortedPair b a := by
  wlog hab : lexLe a b = true generalizing a b
  · have hba : b ≤ a := (List.le_total a b).resolve_left (mt (lexLe_iff_le a b).2 hab)
    exact (this b a ((lexLe_iff_le b a).2 hba)).symm
  · cases hba : lexLe b a with
    | false => rw [sortedPair_of_lexLe hab, sortedPair_of_not_lexLe hba]
    | true => rw [List.le_antisymm ((lexLe_iff_le a b).1 hab) ((lexLe_iff_le b a).1 hba)]

end Sys2Proof.Machine
end

section
/-! PROOFS. The obligations of 44_key_derivation.md. -/

namespace Sys2Proof

open Machine Claims

theorem Machine.endedWith_finish (s : State) {c : Code} (hc : c ≠ .ok) : EndedWith s (s.finish c) c := by
  simp [EndedWith, State.finish, hc]

/-- Byte `i` of the derived Key (R182). -/
theorem Machine.deriveKey_get (P : Params) (a b : Bytes) (i : Fin 16) : (deriveKey P a b)[i] =
    (P.h256 (if lexLe a b then a ++ b ++ P.salt else b ++ a ++ P.salt))[i.val] := by
  refine (first16_get i.isLt _).trans ?_
  cases h : lexLe a b with
  | true => simp [sortedPair_of_lexLe h]
  | false => simp [sortedPair_of_not_lexLe h]

theorem encode_kdf : encode .kdf = 0x00000030 := by decide

/-- Settles O20: the two cases of KDF, the Key byte by byte. -/
theorem kdfCommand : Obligations.KdfCommand := by
  refine ⟨encode_kdf ▸ decodeInvertsEncode .kdf, fun s => ?_⟩
  rcases kdfUnder_cases Config.params s with ⟨hbad, hkdf⟩ | ⟨ha, hb, hkdf⟩
  · refine ⟨fun _ => ⟨_, congrArg Host.Outcome.next hkdf, endedWith_finish s nofun⟩, fun ha hb => ?_⟩
    exact (not_and_or.2 hbad ⟨ha, hb⟩).elim
  · refine ⟨fun hout => absurd ⟨ha, hb⟩ hout, fun _ _ => ⟨deriveKey Config.params s.identA s.identB, ?_, ?_⟩⟩
    · exact congrArg Host.Outcome.next (hkdf.trans (State.complete_eq_update _))
    · rintro _ _ rfl rfl i
      exact deriveKey_get ..

/-- Settles O21: a common beginning does not count, and what is left starts with the first difference
unless one string ends. -/
theorem lexicographicOrder : Obligations.LexicographicOrder := by
  refine fun a b => ⟨⟨fun h => ?_, ?_⟩, sortedPair_of_lexLe, sortedPair_of_not_lexLe⟩
  · rcases isPrefix_or_smallerAtFirstDifference h with hpre | hdiff
    · exact (eq_or_ne a b).imp id fun hne => .inl ⟨hpre, hne⟩
    · exact .inr (.inr hdiff)
  · rintro (rfl | ⟨hpre, -⟩ | hdiff)
    · exact lexLe_of_isPrefix List.prefix_rfl
    · exact lexLe_of_isPrefix hpre
    · exact lexLe_of_smallerAtFirstDifference hdiff

/-- Settles O22: the sorted pair is the same in both orders. -/
theorem keyOrderIndependence : Obligations.KeyOrderIndependence := fun P a b => by
  rw [deriveKey, deriveKey, sortedPair_comm]

/-- Settles O17: each command is one write of `V[vd]`, whose block is made from the round subkey. -/
theorem roundKeyCommands : Obligations.RoundKeyCommands := fun vd vs r =>
  ⟨blockCommand_of_setV (i := .xrk vd vs r)
      (fun s => xorBlock (s.getV vs) (roundKey Config.params s.key r)) rfl (fun _ => rfl)
      (fun s k => (xorBlock_get k.isLt ..).trans (congrArg (s.v[vs][k] ^^^ ·) (first16_get k.isLt _))),
    blockCommand_of_setV (i := .rkey vd r) (fun s => roundKey Config.params s.key r) rfl (fun _ => rfl)
      (fun _ k => first16_get k.isLt _)⟩

end Sys2Proof
end

section
/-! PROOFS. The rounds of the block cipher, ascending and descending (45_block_cipher.md R200, R201), take
each other off. -/

namespace Sys2Proof.Machine

/-- The descending rounds first take off the last of the ascending rounds, down to where those began. -/
theorem decRounds_encRounds (P : Params) (key : Block) (r k : Nat) (b : Block) :
    decRounds P key (r + k) (encRounds P key r k b) = decRounds P key r b := by
  induction k generalizing r b with
  | zero => rfl
  | succ k ih => rw [encRounds, Nat.add_comm k 1, ← Nat.add_assoc, ih, decRounds, invRoundBlock_roundBlock]

/-- The ascending rounds put back all the rounds that were taken off, before they go on with the next. -/
theorem encRounds_decRounds (P : Params) (key : Block) (n k : Nat) (b : Block) :
    encRounds P key 0 (n + k) (decRounds P key n b) = encRounds P key n k b := by
  induction n generalizing k b with
  | zero => rw [decRounds, Nat.zero_add]
  | succ n ih => rw [decRounds, Nat.add_assoc, Nat.add_comm 1 k, ih, encRounds, roundBlock_invRoundBlock]

theorem decryptBlock_encryptBlock (P : Params) (b key : Block) :
    decryptBlock P (encryptBlock P b key) key = b := by
  have hrounds := decRounds_encRounds P key 0 Config.rounds (xorBlock b key)
  rw [Nat.zero_add, decRounds] at hrounds
  rw [decryptBlock, encryptBlock, hrounds, xorBlock_cancel]

theorem encryptBlock_decryptBlock (P : Params) (b key : Block) :
    encryptBlock P (decryptBlock P b key) key = b := by
  rw [encryptBlock, decryptBlock, xorBlock_cancel]
  exact encRounds_decRounds P key Config.rounds 0 b

end Sys2Proof.Machine
end

section
/-! PROOFS. The obligations of 45_block_cipher.md. -/

namespace Sys2Proof

open Machine Claims

/-- Settles O24: the whitening cancels, and the rounds of each direction take off those of the other. -/
theorem blockCipherSelfInverse : Obligations.BlockCipherSelfInverse := fun P b k =>
  ⟨decryptBlock_encryptBlock P b k, encryptBlock_decryptBlock P b k⟩

/-- Settles O23: each command is one write of `V[vd]` with `E` or `D`, whose `Config.rounds` rounds have the
indices 0, 1, 2. -/
theorem blockCipherCommands : Obligations.BlockCipherCommands := fun vd vs =>
  ⟨decode_regWord (i := .encb vd vs) rfl, decode_regWord (i := .decb vd vs) rfl, fun s =>
    ⟨⟨_, rfl, wroteV_setV s vd (encryptBlock Config.params (s.getV vs) s.key)⟩,
      ⟨_, rfl, wroteV_setV s vd (decryptBlock Config.params (s.getV vs) s.key)⟩⟩⟩

end Sys2Proof
end

section
/-! PROOFS. Byte strings as sequences of blocks (46_cbc.md R220): block `n` of a byte string, and that
`bytesOf` and `blocksOf` undo each other. -/

namespace Sys2Proof.Machine

/-- Block `n` of a byte string, its bytes 16 n to 16 n + 15 (R220). -/
def blockAt (x : Bytes) (n : Nat) : Block := blockOf ((x.drop (16 * n)).take 16)

theorem blockAt_get (x : Bytes) (n : Nat) {i : Nat} (hi : i < 16) : (blockAt x n)[i] = x.getD (16 * n + i) 0 := by
  simp [blockAt, List.getD_eq_getElem?_getD, hi]

theorem blocksOf_length (x : Bytes) : (blocksOf x).length = x.length / 16 := takeBlocks_length _ x

theorem takeBlocks_getD {n i : Nat} (h : i < n) (x : Bytes) (d : Block) :
    (takeBlocks n x).getD i d = blockAt x i := by
  induction n generalizing i x with
  | zero => omega
  | succ n ih =>
    cases i with
    | zero => rfl
    | succ i =>
      rw [takeBlocks, List.getD_cons_succ, ih (by omega), blockAt, blockAt, List.drop_drop, Nat.mul_succ,
        Nat.add_comm]

theorem blocksOf_getD {x : Bytes} {i : Nat} (h : i < x.length / 16) (d : Block) :
    (blocksOf x).getD i d = blockAt x i :=
  takeBlocks_getD h x d

/-- The first of the blocks of an envelope, C_0, stands apart from the others (R224). -/
theorem blocksOf_eq_cons {x : Bytes} (h : 16 ≤ x.length) : ∃ c cs, blocksOf x = c :: cs :=
  List.length_pos_iff_exists_cons.1 (by rw [blocksOf_length]; omega)

theorem toList_getD (b : Block) {i : Nat} (h : i < 16) : b.toList.getD i 0 = b[i] := by
  simp [List.getD_eq_getElem?_getD, h]

theorem toList_blockOf {x : Bytes} (h : x.length = 16) : (blockOf x).toList = x :=
  List.ext_getElem (by simp [h]) fun i hi hx => by simp [blockOf, hx]

theorem bytesOf_takeBlocks {n : Nat} {x : Bytes} (h : x.length = 16 * n) : bytesOf (takeBlocks n x) = x := by
  induction n generalizing x with
  | zero => exact (List.eq_nil_of_length_eq_zero h).symm
  | succ n ih =>
    have htake : (x.take 16).length = 16 := List.length_take_of_le (by omega)
    have hdrop : (x.drop 16).length = 16 * n := by rw [List.length_drop]; omega
    rw [takeBlocks, bytesOf_cons, toList_blockOf htake, ih hdrop, List.take_append_drop]

theorem bytesOf_blocksOf {x : Bytes} (h : x.length % 16 = 0) : bytesOf (blocksOf x) = x :=
  bytesOf_takeBlocks (by omega)

theorem takeBlocks_bytesOf (bs : List Block) : takeBlocks bs.length (bytesOf bs) = bs := by
  induction bs with
  | nil => rfl
  | cons b bs ih =>
    have hb : b.toList.length = 16 := b.length_toList
    rw [List.length_cons, bytesOf_cons, takeBlocks, List.take_left' hb, List.drop_left' hb, blockOf_toList, ih]

theorem blocksOf_bytesOf (bs : List Block) : blocksOf (bytesOf bs) = bs := by
  rw [blocksOf, bytesOf_length, Nat.mul_div_cancel_left _ (by decide), takeBlocks_bytesOf]

theorem getD_set_same (x : Bytes) (b : Byte) {n : Nat} (h : n < x.length) : (x.set n b).getD n 0 = b := by
  simp [List.getD_eq_getElem?_getD, h]

theorem getD_set_other (x : Bytes) (b : Byte) {n q : Nat} (h : q ≠ n) : (x.set n b).getD q 0 = x.getD q 0 := by
  rw [List.getD_eq_getElem?_getD, List.getElem?_set_ne h.symm, List.getD_eq_getElem?_getD]

/-- A change of one byte leaves every other block as it is. -/
theorem blockAt_set_other {n i j : Nat} (x : Bytes) (b : Byte) (hj : j < 16) (hne : n ≠ i) :
    blockAt (x.set (16 * i + j) b) n = blockAt x n := by
  ext k hk : 1
  rw [blockAt_get _ _ hk, blockAt_get _ _ hk, getD_set_other x b (by omega)]

end Sys2Proof.Machine
end

section
/-! PROOFS. Padding (46_cbc.md R221) and its removal by the last byte (R222). -/

namespace Sys2Proof.Machine

theorem padCount_bounds (n : Nat) : 1 ≤ padCount n ∧ padCount n ≤ 16 := by
  unfold padCount
  omega

theorem unpad_bad {p : Bytes} {x : Byte} (h : x.toNat < 1 ∨ 16 < x.toNat) : unpad (p ++ [x]) = none := by
  rw [unpad, List.getLastD_concat]
  exact if_pos (h.imp_right .inl)

theorem unpad_ok {p : Bytes} {x : Byte} (hmin : 1 ≤ x.toNat) (hmax : x.toNat ≤ 16)
    (hlen : x.toNat ≤ (p ++ [x]).length) :
    unpad (p ++ [x]) = some ((p ++ [x]).take ((p ++ [x]).length - x.toNat)) := by
  rw [unpad, List.getLastD_concat]
  exact if_neg (by omega)

/-- The padded message ends in its pad count. -/
theorem pad_eq_concat (m : Bytes) : pad m = m ++ List.replicate (padCount m.length - 1)
    (BitVec.ofNat 8 (padCount m.length)) ++ [BitVec.ofNat 8 (padCount m.length)] := by
  obtain ⟨hmin, -⟩ := padCount_bounds m.length
  rw [List.append_assoc, ← List.replicate_succ', Nat.sub_add_cancel hmin, pad]

theorem unpad_pad (m : Bytes) : unpad (pad m) = some m := by
  obtain ⟨hmin, hmax⟩ := padCount_bounds m.length
  have hv : (BitVec.ofNat 8 (padCount m.length)).toNat = padCount m.length :=
    Nat.mod_eq_of_lt (by omega)
  have hlen : (pad m).length = m.length + padCount m.length := by simp [pad]
  have hunpad := unpad_ok (p := m ++ List.replicate (padCount m.length - 1) (BitVec.ofNat 8 (padCount m.length)))
    (x := BitVec.ofNat 8 (padCount m.length)) (by omega) (by omega) (by rw [← pad_eq_concat]; omega)
  rw [← pad_eq_concat, hlen, hv, Nat.add_sub_cancel] at hunpad
  rw [hunpad, pad, List.take_left]

end Sys2Proof.Machine
end

section
/-! PROOFS. The chains of CBC (46_cbc.md R223, R224) block by block, and that the second takes the first
off again (R229). -/

namespace Sys2Proof.Machine

variable (P : Params) (key : Block)

/-- `C_i <- E(P_i ⊕ C_(i-1), K)`, the blocks `C` counted from the IV (R223). -/
theorem chainBlocks_getD {prev : Block} {bs : List Block} {i : Nat} (h : i < bs.length) (d : Block) :
    (chainBlocks P key prev bs).getD i d =
      encryptBlock P (xorBlock (bs.getD i d) ((prev :: chainBlocks P key prev bs).getD i d)) key := by
  induction bs generalizing prev i with
  | nil => exact absurd h (Nat.not_lt_zero i)
  | cons b bs ih =>
    cases i with
    | zero => rfl
    | succ i => exact ih (Nat.lt_of_succ_lt_succ h)

/-- `P_i <- D(C_i, K) ⊕ C_(i-1)`, the blocks `C` counted from the IV (R224). -/
theorem unchainBlocks_getD {prev : Block} {cs : List Block} {i : Nat} (h : i < cs.length) (d : Block) :
    (unchainBlocks P key prev cs).getD i d =
      xorBlock (decryptBlock P (cs.getD i d) key) ((prev :: cs).getD i d) := by
  induction cs generalizing prev i with
  | nil => exact absurd h (Nat.not_lt_zero i)
  | cons c cs ih =>
    cases i with
    | zero => rfl
    | succ i => exact ih (Nat.lt_of_succ_lt_succ h)

theorem unchainBlocks_chainBlocks (prev : Block) (bs : List Block) :
    unchainBlocks P key prev (chainBlocks P key prev bs) = bs := by
  induction bs generalizing prev with
  | nil => rfl
  | cons b bs ih => rw [chainBlocks, unchainBlocks, decryptBlock_encryptBlock, xorBlock_cancel, ih]

variable {P key}

theorem blocksOf_cbcEncrypt (m : Bytes) (iv : Block) :
    blocksOf (cbcEncrypt P m key iv) = iv :: chainBlocks P key iv (blocksOf (pad m)) :=
  blocksOf_bytesOf _

theorem cbcRecover_of_blocksOf {x : Bytes} {c : Block} {cs : List Block} (h : blocksOf x = c :: cs) :
    cbcRecover P x key = bytesOf (unchainBlocks P key c cs) := by
  rw [cbcRecover, h]

/-- Decryption recovers the padded message, whatever the IV was. -/
theorem cbcRecover_cbcEncrypt (m : Bytes) (iv : Block) : cbcRecover P (cbcEncrypt P m key iv) key = pad m := by
  have hpad : (pad m).length % 16 = 0 := by rw [pad_length, Nat.mul_mod_right]
  rw [cbcRecover_of_blocksOf (blocksOf_cbcEncrypt m iv), unchainBlocks_chainBlocks, bytesOf_blocksOf hpad]

theorem cbcDecrypt_cbcEncrypt (m : Bytes) (iv : Block) : cbcDecrypt P (cbcEncrypt P m key iv) key = some m := by
  rw [cbcDecrypt, cbcRecover_cbcEncrypt, unpad_pad]

/-- The envelope begins with the IV (R223). -/
theorem blockOf_take_cbcEncrypt (m : Bytes) (iv : Block) : blockOf ((cbcEncrypt P m key iv).take 16) = iv := by
  rw [cbcEncrypt, bytesOf_cons, List.take_left' iv.length_toList, blockOf_toList]

/-- Recovered block `i` (R224), where the envelope's block 0 is the IV. -/
theorem blocksOf_cbcRecover_getD {x : Bytes} {i : Nat} (h : i < x.length / 16 - 1) (d : Block) :
    (blocksOf (cbcRecover P x key)).getD i d =
      xorBlock (decryptBlock P ((blocksOf x).getD (i + 1) d) key) ((blocksOf x).getD i d) := by
  obtain ⟨c, cs, hx⟩ := blocksOf_eq_cons (x := x) (by omega)
  have hlen : i < cs.length := by
    have := congrArg List.length hx
    rw [blocksOf_length, List.length_cons] at this
    omega
  rw [cbcRecover_of_blocksOf hx, blocksOf_bytesOf, hx, unchainBlocks_getD P key hlen, List.getD_cons_succ]

/-- Recovered byte `q` comes from two blocks: from one through `D`, from the one before it by its byte in
the same place, which is byte `q` of the envelope (R224). -/
theorem cbcRecover_getD {x : Bytes} {q : Nat} (h : q < (cbcRecover P x key).length) :
    (cbcRecover P x key).getD q 0 =
      (decryptBlock P (blockAt x (q / 16 + 1)) key).toList.getD (q % 16) 0 ^^^ x.getD q 0 := by
  have hq : q % 16 < 16 := Nat.mod_lt q (by decide)
  have hlen := cbcRecover_length P x key
  have hblock := blocksOf_cbcRecover_getD (P := P) (key := key) (x := x) (i := q / 16) (by omega) zeroBlock
  rw [blocksOf_getD (by omega), blocksOf_getD (by omega), blocksOf_getD (by omega)] at hblock
  have hbyte := congrArg (fun b : Block => b[q % 16]) hblock
  rwa [xorBlock_get, blockAt_get _ _ hq, blockAt_get _ _ hq, Nat.div_add_mod, ← toList_getD _ hq] at hbyte

end Sys2Proof.Machine
end

section
/-! PROOFS. CBCENC and CBCDEC (46_cbc.md R225, R226): their checks one by one, and the state each leaves when
all of them pass. -/

namespace Sys2Proof

open Machine Claims

variable {P : Params} {s : State}

theorem cbcencCheck_ok_iff : cbcencCheck P s = .ok ↔ CbcencAccepts P s := by
  unfold CbcencAccepts
  rcases cbcencCheck_cases P s with
    ⟨hsrc, hc⟩ | ⟨hsrc, ⟨hcap, hc⟩ | ⟨hcap, ⟨hdst, hc⟩ | ⟨hdst, ⟨hov, hc⟩ | ⟨hov, hc⟩⟩⟩⟩ <;> rw [hc]
  · exact ⟨nofun, fun h => absurd h.1 hsrc⟩
  · exact ⟨nofun, fun h => absurd h.2.1 (Nat.not_le_of_lt hcap)⟩
  · exact ⟨nofun, fun h => absurd h.2.2.1 hdst⟩
  · exact ⟨nofun, fun h => absurd hov h.2.2.2⟩
  · exact ⟨fun _ => ⟨hsrc, hcap, hdst, hov⟩, fun _ => rfl⟩

theorem cbcdecCheck_ok_iff {p : Bytes} : cbcdecCheck P s = .ok p ↔ CbcdecAccepts P s p := by
  rw [cbcdecCheck_ok, and_assoc]
  rfl

/-- A failing check ends CBCENC with its code. -/
theorem cbcencUnder_endedWith {c : Code} (h : cbcencCheck P s = c) (hc : c ≠ .ok) :
    EndedWith s (cbcencUnder P s) c := by
  subst h
  rw [cbcencUnder_of_check hc]
  exact endedWith_finish s hc

/-- A failing check ends CBCDEC with its code. -/
theorem cbcdecUnder_endedWith {c : Code} (h : cbcdecCheck P s = .error c) :
    EndedWith s (cbcdecUnder P s) c := by
  have hend : cbcdecUnder P s = s.finish c := by simp [cbcdecUnder, h]
  rw [hend]
  exact endedWith_finish s (cbcdecCheck_error_ne h).1

/-- All checks pass, and the one draw fails. -/
theorem cbcencUnder_of_noDraw (h : CbcencAccepts P s) (hd : s.nextDraw = none) :
    cbcencUnder P s = s.drawn.finish .entropyError := by
  simp [cbcencUnder, cbcencCheck_ok_iff.2 h, hd]

/-- The writes of CBCENC after its draw, register by register (R225). -/
theorem cbcencWrite_drawn_eq_update (P : Params) (ivv : Block) (s : State) : cbcencWrite P ivv s.drawn = { s with
    mem := s.mem.writeBytes s.dstAddr.toNat (cbcEncrypt P s.source s.key ivv), iv := ivv,
    result := BitVec.ofNat 32 (envelopeLength s.srcLen.toNat), entropy := s.entropy.tail,
    draws := s.draws + 1 } := rfl

/-- All checks pass, and the one draw gives the IV: what CBCENC leaves (R225). -/
theorem cbcencUnder_of_draw {ivv : Block} (h : CbcencAccepts P s) (hd : s.nextDraw = some ivv) :
    cbcencUnder P s = { s with
      mem := s.mem.writeBytes s.dstAddr.toNat (cbcEncrypt P s.source s.key ivv), iv := ivv,
      result := BitVec.ofNat 32 (envelopeLength s.srcLen.toNat), entropy := s.entropy.tail,
      draws := s.draws + 1, pend := none, done := true, errcode := .ok } := by
  have hwrite : cbcencUnder P s = (cbcencWrite P ivv s.drawn).complete := by
    simp [cbcencUnder, cbcencCheck_ok_iff.2 h, hd]
  rw [hwrite, cbcencWrite_drawn_eq_update, State.complete_eq_update]

/-- The writes of CBCDEC, register by register (R226). -/
theorem cbcdecWrite_eq_update (p : Bytes) (s : State) : cbcdecWrite p s = { s with
    mem := s.mem.writeBytes s.dstAddr.toNat p, iv := blockOf (s.source.take 16),
    result := BitVec.ofNat 32 p.length } := by
  simp only [cbcdecWrite, State.setIv, State.setResult, State.writeM]

/-- All checks pass: what CBCDEC leaves (R226). -/
theorem cbcdecUnder_of_accepts {p : Bytes} (h : CbcdecAccepts P s p) :
    cbcdecUnder P s = { s with
      mem := s.mem.writeBytes s.dstAddr.toNat p, iv := blockOf (s.source.take 16),
      result := BitVec.ofNat 32 p.length, pend := none, done := true, errcode := .ok } := by
  have hwrite : cbcdecUnder P s = (cbcdecWrite p s).complete := by
    simp [cbcdecUnder, cbcdecCheck_ok_iff.2 h]
  rw [hwrite, cbcdecWrite_eq_update, State.complete_eq_update]

/-- A CBCENC that ends with code 0 passed its checks and drew an IV. -/
theorem cbcencUnder_ok (h : (cbcencUnder P s).errcode = .ok) :
    CbcencAccepts P s ∧ ∃ ivv, s.nextDraw = some ivv := by
  rcases cbcencUnder_cases P s with ⟨hc, hu⟩ | ⟨-, -, hu⟩ | ⟨ivv, hc, hd, -⟩
  · rw [hu] at h
    exact absurd h hc
  · rw [hu] at h
    exact absurd h nofun
  · exact ⟨cbcencCheck_ok_iff.1 hc, ivv, hd⟩

/-- The checks of CBCENC in their order, each with the code of its failure (R225, R264). -/
theorem cbcencErrors (P : Params) (s : State) :
    CbcencErrors P s s.srcLen.toNat (16 * (s.srcLen.toNat / 16 + 2)) := by
  refine ⟨fun hsrc => ?_, fun hsrc hcap => ?_, fun hsrc hcap hdst => ?_, fun hsrc hcap hdst hov => ?_,
    fun hacc hd => ?_⟩
  · exact cbcencUnder_endedWith (if_pos hsrc) nofun
  · exact cbcencUnder_endedWith ((if_neg (not_not.2 hsrc)).trans (if_pos hcap)) nofun
  · have hcheck : cbcencCheck P s = .busError :=
      (if_neg (not_not.2 hsrc)).trans ((if_neg (Nat.not_lt.2 hcap)).trans (if_pos hdst))
    exact cbcencUnder_endedWith hcheck nofun
  · have hcheck : cbcencCheck P s = .overlap :=
      (if_neg (not_not.2 hsrc)).trans ((if_neg (Nat.not_lt.2 hcap)).trans
        ((if_neg (not_not.2 hdst)).trans (if_pos hov)))
    exact cbcencUnder_endedWith hcheck nofun
  · rw [cbcencUnder_of_noDraw hacc hd]
    exact endedWith_finish _ nofun

theorem cbcdecCheck_of_bad (hlen : EnvelopeLengthOk s.srcLen.toNat)
    (hsrc : InRange P s.srcAddr.toNat s.srcLen.toNat) (hbad : cbcDecrypt P s.source s.key = none) :
    cbcdecCheck P s = .error .invalidPadding := by
  rw [cbcdecCheck, hbad]
  exact (if_neg (not_not.2 hlen)).trans (if_neg (not_not.2 hsrc))

/-- The checks of CBCDEC that are left once its source gave a plaintext. -/
theorem cbcdecCheck_of_plaintext {p : Bytes} (hlen : EnvelopeLengthOk s.srcLen.toNat)
    (hsrc : InRange P s.srcAddr.toNat s.srcLen.toNat) (hp : cbcDecrypt P s.source s.key = some p) :
    cbcdecCheck P s =
      if s.dstCap.toNat < p.length then .error .capacity
      else if ¬ InRange P s.dstAddr.toNat p.length then .error .busError
      else if Overlap s.srcAddr.toNat s.srcLen.toNat s.dstAddr.toNat p.length then .error .overlap
      else .ok p := by
  rw [cbcdecCheck, hp]
  exact (if_neg (not_not.2 hlen)).trans (if_neg (not_not.2 hsrc))

/-- The checks of CBCDEC in their order, each with the code of its failure (R226, R264). -/
theorem cbcdecErrors (P : Params) (s : State) : CbcdecErrors P s s.srcLen.toNat := by
  refine ⟨fun hlen => ?_, fun hmin hmod hsrc => ?_, fun hmin hmod hsrc hbad => ?_,
    fun p hmin hmod hsrc hp => ?_⟩
  · have hbad : ¬ EnvelopeLengthOk s.srcLen.toNat := fun h => hlen.elim (Nat.not_lt.2 h.1) (· h.2)
    exact cbcdecUnder_endedWith (if_pos hbad)
  · have hlen : EnvelopeLengthOk s.srcLen.toNat := ⟨hmin, hmod⟩
    exact cbcdecUnder_endedWith ((if_neg (not_not.2 hlen)).trans (if_pos hsrc))
  · exact cbcdecUnder_endedWith (cbcdecCheck_of_bad ⟨hmin, hmod⟩ hsrc hbad)
  · have hcheck := cbcdecCheck_of_plaintext ⟨hmin, hmod⟩ hsrc hp
    refine ⟨fun hcap => ?_, fun hcap hdst => ?_, fun hcap hdst hov => ?_⟩
    · exact cbcdecUnder_endedWith (hcheck.trans (if_pos hcap))
    · exact cbcdecUnder_endedWith (hcheck.trans ((if_neg (Nat.not_lt.2 hcap)).trans (if_pos hdst)))
    · exact cbcdecUnder_endedWith (hcheck.trans ((if_neg (Nat.not_lt.2 hcap)).trans
        ((if_neg (not_not.2 hdst)).trans (if_pos hov))))

theorem encode_cbcenc : encode .cbcenc = 0x00000040 := by decide

theorem encode_cbcdec : encode .cbcdec = 0x00000041 := by decide

theorem encode_valid : encode .valid = 0x00000042 := by decide

/-- The ceiling of R228 is a quotient of naturals. -/
theorem natCeil_succ_div_sixteen (n : Nat) : ⌈((n : ℚ) + 1) / 16⌉₊ = n / 16 + 1 := by
  have hlow : ((16 * (n / 16) : ℕ) : ℚ) ≤ n := Nat.cast_le.2 (Nat.mul_div_le n 16)
  have hhigh : ((n + 1 : ℕ) : ℚ) ≤ (16 * (n / 16 + 1) : ℕ) := Nat.cast_le.2 (by omega)
  rw [Nat.ceil_eq_iff (n / 16).succ_ne_zero, Nat.succ_sub_one]
  push_cast at hlow hhigh ⊢
  constructor <;> linarith

end Sys2Proof
end

section
/-! PROOFS. The obligations of 46_cbc.md. -/

namespace Sys2Proof

open Machine Claims

/-- Settles O25: the last byte of a string alone decides what `unpad` does, and the pad count is 1 to 16. -/
theorem paddingAndUnpadding : Obligations.PaddingAndUnpadding := by
  refine ⟨fun m => ?_, fun p x hlen => ⟨unpad_bad, fun hmin hmax => unpad_ok hmin hmax (hmax.trans hlen)⟩⟩
  obtain ⟨hmin, hmax⟩ := padCount_bounds m.length
  refine ⟨padCount m.length, rfl, hmin, hmax, rfl, pad_length m, ?_⟩
  rw [pad_eq_concat, List.getLast?_concat]

/-- Settles O26: the blocks of the envelope and of the recovered string are those of the two chains. -/
theorem cbcChaining : Obligations.CbcChaining := by
  refine ⟨fun P m k iv i hi => ⟨cbcEncrypt_length P m k iv, ?_, ?_⟩, fun P x k i hmin hmod hi => ⟨rfl, ?_, ?_⟩⟩
  · rw [blocksOf_cbcEncrypt, List.getD_cons_zero]
  · have hblocks : i < (blocksOf (pad m)).length := by
      rw [blocksOf_length, pad_length]
      omega
    rw [blocksOf_cbcEncrypt, List.getD_cons_succ]
    exact chainBlocks_getD P k hblocks zeroBlock
  · rw [cbcRecover_length]
    omega
  · exact blocksOf_cbcRecover_getD hi zeroBlock

/-- Settles O27: the checks pass exactly if `CbcencAccepts`, and then the effect is the store of the envelope
and the writes of IV and RESULT after one draw. -/
theorem cbcencCompletes : Obligations.CbcencCompletes := by
  refine ⟨fun P s ivv hwf hacc hd => ⟨_, rfl, ?_⟩, cbcencErrors, encode_cbcenc ▸ decodeInvertsEncode .cbcenc,
    fun _ => rfl⟩
  have hlen : (cbcEncrypt P s.source s.key ivv).length = 16 * (s.srcLen.toNat / 16 + 2) :=
    cbcEncrypt_source_length P s ivv
  obtain ⟨-, hread, hframe⟩ := memoryReadAfterWrite s.mem s.dstAddr.toNat (cbcEncrypt P s.source s.key ivv) hwf
  rw [hlen] at hread hframe
  rw [cbcencUnder_of_draw hacc hd]
  obtain ⟨-, hcap, -⟩ := hacc
  exact ⟨rfl, toNat_ofNat_of_le hcap, hread, hframe⟩

/-- Settles O28: the checks pass exactly if `CbcdecAccepts`, and then the effect is the store of the plaintext
and the writes of IV and RESULT. -/
theorem cbcdecCompletes : Obligations.CbcdecCompletes := by
  refine ⟨fun P s p hwf hacc => ⟨_, rfl, ?_⟩, cbcdecErrors, encode_cbcdec ▸ decodeInvertsEncode .cbcdec,
    fun _ => rfl⟩
  obtain ⟨-, hread, hframe⟩ := memoryReadAfterWrite s.mem s.dstAddr.toNat p hwf
  rw [cbcdecUnder_of_accepts hacc]
  obtain ⟨hmin, -, -, hp, hcap, -⟩ := hacc
  have hshort := cbcDecrypt_length hp
  rw [Memory.readBytes_length] at hshort
  refine ⟨rfl, fun i => ?_, toNat_ofNat_of_le hcap, hshort, hread, hframe⟩
  calc (blockOf (s.source.take 16))[i]
      = s.source.getD i 0 := by
        rw [Fin.getElem_fin, blockOf_get]
        simp [List.getD_eq_getElem?_getD]
    _ = s.mem.read (s.srcAddr.toNat + i) := Memory.readBytes_getD (by omega)

/-- Settles O31: the quotient of R225 is the ceiling. -/
theorem envelopeLengthLaw : Obligations.EnvelopeLengthLaw := by
  intro P m k iv
  rw [cbcEncrypt_length, envelopeLength, natCeil_succ_div_sixteen]
  omega

/-- Settles O32: the chain and the padding are taken off again. -/
theorem cbcRoundTrip : Obligations.CbcRoundTrip := fun _ m _ iv => cbcDecrypt_cbcEncrypt m iv

/-- Settles O33: the envelope reads back whole, so the source of CBCDEC is an encryption of the message. -/
theorem storedEnvelopeDecryptsBack : Obligations.StoredEnvelopeDecryptsBack := by
  rintro P s t u w m hwf rfl hok rfl hmem hkey hsrc hlen hcap hdst hov rfl
  obtain ⟨hacc, ivv, hd⟩ := cbcencUnder_ok hok
  have hsize : (cbcEncrypt P s.source s.key ivv).length = 16 * (s.srcLen.toNat / 16 + 2) :=
    cbcEncrypt_source_length P s ivv
  obtain ⟨hwf', hback, -⟩ := memoryReadAfterWrite s.mem s.dstAddr.toNat (cbcEncrypt P s.source s.key ivv) hwf
  rw [cbcencUnder_of_draw hacc hd] at hmem hkey hlen ⊢
  obtain ⟨-, hroom, hout, -⟩ := hacc
  have hlen' : u.srcLen.toNat = 16 * (s.srcLen.toNat / 16 + 2) := by
    rw [hlen]
    exact toNat_ofNat_of_le hroom
  have hsource : u.source = cbcEncrypt P s.source s.key ivv := by
    rw [State.source, hmem, hsrc, hlen', ← hsize]
    exact hback
  have hdec : CbcdecAccepts P u s.source := by
    refine ⟨by omega, by omega, by rw [hsrc, hlen']; exact hout, ?_, hcap, hdst, hov⟩
    exact (congrArg₂ (cbcDecrypt P) hsource hkey).trans (cbcDecrypt_cbcEncrypt _ ivv)
  obtain ⟨-, hread, -⟩ := memoryReadAfterWrite u.mem u.dstAddr.toNat s.source (hmem ▸ hwf')
  rw [cbcdecUnder_of_accepts hdec]
  refine ⟨rfl, ?_, ?_, hread⟩
  · simp [State.source]
  · simp [hsource, blockOf_take_cbcEncrypt]

/-- Settles O34: a recovered byte depends on the block it comes from and on one byte of the block before. -/
theorem errorPropagation : Obligations.ErrorPropagation := by
  intro P x k i j d hmin hmod hi hj y hy
  have hrec := cbcRecover_length P x k
  have hlen : (cbcRecover P y k).length = (cbcRecover P x k).length := by
    rw [cbcRecover_length, hy, List.length_set, hrec]
  have hsame : ∀ q, q ≠ 16 * i + j → y.getD q 0 = x.getD q 0 := fun q hq => by rw [hy, getD_set_other _ _ hq]
  have hblock : ∀ n, n ≠ i → blockAt y n = blockAt x n := fun n hn => by rw [hy, blockAt_set_other _ _ hj hn]
  refine ⟨hlen, fun q hq _ => ?_, fun q hq hlt => ?_, fun q hq => ?_⟩
  · by_cases hlt : q < (cbcRecover P x k).length
    · rw [cbcRecover_getD hlt, cbcRecover_getD (hlen ▸ hlt), hblock _ hq, hsame q (by omega)]
    · rw [List.getD_eq_default _ _ (by omega), List.getD_eq_default _ _ (by omega)]
  · rw [cbcRecover_getD hlt, cbcRecover_getD (hlen ▸ hlt), hblock _ (by omega), BitVec.xor_assoc]
    congr 1
    split
    · next hqj =>
      obtain rfl : q = 16 * i + j := by omega
      rw [hy, getD_set_same _ _ (by omega)]
    · next hqj => exact (hsame q (by omega)).trans BitVec.xor_zero.symm
  · rw [cbcRecover_getD (by omega), hq, hsame q (by omega), show 16 * (i - 1) + q % 16 = q by omega]
    rfl

/-- Settles O29: VALID is one write of RESULT. -/
theorem validCommand : Obligations.ValidCommand := by
  refine ⟨encode_valid ▸ decodeInvertsEncode .valid, fun s => ⟨fun hok => ⟨_, rfl, ?_⟩, fun hbad => ⟨_, rfl, ?_⟩⟩⟩
  · rw [if_pos hok]
    exact wroteResult_setResult s 1
  · rw [if_neg hbad]
    exact wroteResult_setResult s 0

end Sys2Proof
end

section
/-! PROOFS. How a command ends (60_exceptions.md R266, R267): the completion bookkeeping over a state in
which only its rule's writes are done. -/

namespace Sys2Proof.Machine

/-- The core's turn while idle (log 2). -/
theorem coreTurn_of_idle {s : State} (hp : s.pend = none) : coreTurn s = .next s := by
  simp [coreTurn, hp]

/-- The core's turn on an illegal pending word (30_encoding.md R85). -/
theorem coreTurn_of_illegal {s : State} {w : Word} (hp : s.pend = some w) (hd : decode w = none) :
    coreTurn s = .next (s.finish .illegalCmd) := by
  simp [coreTurn, hp, hd]

/-- From `s` to `u` the command `i` has written only what its rule names; the bookkeeping is to come. For
KEY, IV and M see `exec_key_iv_ie_done` and `exec_mem`. -/
structure RuleWrites (i : Instr) (s u : State) : Prop where
  frame : u = { s with
    v := u.v, result := u.result, key := u.key, iv := u.iv, mem := u.mem, entropy := u.entropy,
    draws := u.draws }
  v : ∀ n : VReg, destV i ≠ some n → u.v[n] = s.v[n]
  result : writesResult i = false → u.result = s.result
  source : i ≠ .cbcenc → u.entropy = s.entropy ∧ u.draws = s.draws

/-- A command that writes nothing. -/
theorem RuleWrites.refl (i : Instr) (s : State) : RuleWrites i s s :=
  ⟨rfl, fun _ _ => rfl, fun _ => rfl, fun _ => ⟨rfl, rfl⟩⟩

theorem RuleWrites.setV {i : Instr} {vd : VReg} (hi : destV i = some vd) (s : State) (b : Block) :
    RuleWrites i s (s.setV vd b) := by
  refine ⟨rfl, fun n hn => ?_, fun _ => rfl, fun _ => ⟨rfl, rfl⟩⟩
  obtain ⟨-, -, hother⟩ := wroteV_setV s vd b
  exact hother n fun h => hn (hi.trans (congrArg some h.symm))

theorem RuleWrites.setResult {i : Instr} (hi : writesResult i = true) (s : State) (x : Word) :
    RuleWrites i s (s.setResult x) :=
  ⟨rfl, fun _ _ => rfl, fun h => absurd (hi.symm.trans h) nofun, fun _ => ⟨rfl, rfl⟩⟩

/-- The write of KDF (44_key_derivation.md R183). -/
theorem RuleWrites.setKey (i : Instr) (s : State) (b : Block) : RuleWrites i s (s.setKey b) :=
  ⟨rfl, fun _ _ => rfl, fun _ => rfl, fun _ => ⟨rfl, rfl⟩⟩

/-- The writes of CBCENC and CBCDEC: M, IV and RESULT (46_cbc.md R225, R226). -/
theorem RuleWrites.store {i : Instr} (hi : writesResult i = true) (s : State) (a : Nat) (bs : Bytes)
    (iv : Block) (x : Word) : RuleWrites i s (((s.writeM a bs).setIv iv).setResult x) :=
  ⟨rfl, fun _ _ => rfl, fun h => absurd (hi.symm.trans h) nofun, fun _ => ⟨rfl, rfl⟩⟩

/-- The draw of CBCENC (60_exceptions.md R275). -/
theorem RuleWrites.drawn (s : State) : RuleWrites .cbcenc s s.drawn :=
  ⟨rfl, fun _ _ => rfl, nofun, fun hi => absurd rfl hi⟩

theorem RuleWrites.trans {i : Instr} {s t u : State} (hst : RuleWrites i s t) (htu : RuleWrites i t u) :
    RuleWrites i s u where
  frame := htu.frame.trans (congrArg (fun x : State => { x with
    v := u.v, result := u.result, key := u.key, iv := u.iv, mem := u.mem, entropy := u.entropy,
    draws := u.draws }) hst.frame)
  v n hn := (htu.v n hn).trans (hst.v n hn)
  result hi := (htu.result hi).trans (hst.result hi)
  source hi := ⟨(htu.source hi).1.trans (hst.source hi).1, (htu.source hi).2.trans (hst.source hi).2⟩

/-- `t` is the end of the command `i` from `s` with some code: a success does the bookkeeping over the
writes of the rule, an error over nothing but, for CBCENC, the failed draw. -/
def Ends (i : Instr) (s t : State) : Prop :=
  ∃ u c, t = u.finish c ∧ RuleWrites i s u ∧
    (c ≠ .ok → u = { s with entropy := u.entropy, draws := u.draws })

/-- Nothing is written: NOP, and the failing checks. -/
theorem Ends.finish (i : Instr) (s : State) (c : Code) : Ends i s (s.finish c) :=
  ⟨s, c, rfl, .refl i s, fun _ => rfl⟩

/-- A success. -/
theorem RuleWrites.ends {i : Instr} {s u : State} (h : RuleWrites i s u) : Ends i s (u.finish .ok) :=
  ⟨u, .ok, rfl, h, fun hc => absurd rfl hc⟩

theorem kdfUnder_ends (P : Params) (s : State) : Ends .kdf s (kdfUnder P s) := by
  rcases kdfUnder_cases P s with ⟨-, h⟩ | ⟨-, -, h⟩ <;> rw [h]
  · exact .finish ..
  · exact (RuleWrites.setKey _ s _).ends

theorem cbcencUnder_ends (P : Params) (s : State) : Ends .cbcenc s (cbcencUnder P s) := by
  rcases cbcencUnder_cases P s with ⟨-, h⟩ | ⟨-, -, h⟩ | ⟨ivv, -, -, h⟩ <;> rw [h]
  · exact .finish ..
  · exact ⟨s.drawn, _, rfl, .drawn s, fun _ => rfl⟩
  · exact ((RuleWrites.drawn s).trans (.store rfl ..)).ends

theorem cbcdecUnder_ends (P : Params) (s : State) : Ends .cbcdec s (cbcdecUnder P s) := by
  rcases cbcdecUnder_cases P s with ⟨c, -, h⟩ | ⟨p, -, h⟩ <;> rw [h]
  · exact .finish ..
  · exact (RuleWrites.store rfl ..).ends

/-- How every command ends. -/
theorem exec_ends {i : Instr} {s t : State} (h : exec i s = .next t) : Ends i s t := by
  obtain ⟨t', he, hc⟩ := exec_cases i s
  obtain rfl : t' = t := Host.Outcome.next.inj (he.symm.trans h)
  rcases hc with ⟨-, rfl⟩ | ⟨vd, b, hi, rfl⟩ | ⟨x, hi, -, -, rfl⟩ | ⟨rfl, rfl⟩ | ⟨rfl, rfl⟩ | ⟨rfl, rfl⟩
  · exact .finish ..
  · exact (RuleWrites.setV hi s b).ends
  · exact (RuleWrites.setResult hi s x).ends
  · exact kdfUnder_ends ..
  · exact cbcencUnder_ends ..
  · exact cbcdecUnder_ends ..

/-- Only CBCENC draws (60_exceptions.md R275). -/
theorem exec_source {i : Instr} {s t : State} (hi : i ≠ .cbcenc) (h : exec i s = .next t) :
    t.entropy = s.entropy ∧ t.draws = s.draws := by
  obtain ⟨u, c, rfl, hw, -⟩ := exec_ends h
  exact hw.source hi

/-- The bookkeeping of R266 from `s` to `t`, for the code that `t` holds. -/
def Bookkept (s t : State) : Prop :=
  t.pend = none ∧ t.busy = false ∧ t.done = true ∧ (t.errcode ≠ .ok → t.err = true) ∧
    (t.errcode = .ok → t.err = s.err) ∧ t.ign = s.ign ∧ t.cmd = s.cmd ∧ t.ie = s.ie

theorem bookkept_finish {s u : State} (c : Code) (herr : u.err = s.err) (hign : u.ign = s.ign)
    (hcmd : u.cmd = s.cmd) (hie : u.ie = s.ie) : Bookkept s (u.finish c) := by
  refine ⟨rfl, rfl, rfl, fun hc => ?_, fun hc => ?_, hign, hcmd, hie⟩
  · rw [State.finish_errcode] at hc
    simp [hc]
  · rw [State.finish_errcode] at hc
    simp [hc, herr]

theorem Ends.bookkept {i : Instr} {s t : State} (h : Ends i s t) : Bookkept s t := by
  obtain ⟨u, c, rfl, hw, -⟩ := h
  exact bookkept_finish c (congrArg State.err hw.frame :) (congrArg State.ign hw.frame :)
    (congrArg State.cmd hw.frame :) (congrArg State.ie hw.frame :)

/-- The core's turn ends every pending command (R265, R266). -/
theorem coreTurn_bookkept {s : State} {w : Word} (hp : s.pend = some w) :
    ∃ t, coreTurn s = .next t ∧ Bookkept s t := by
  cases hd : decode w with
  | none => exact ⟨_, coreTurn_of_illegal hp hd, bookkept_finish _ rfl rfl rfl rfl⟩
  | some i =>
    obtain ⟨t, ht, -⟩ := exec_cases i s
    exact ⟨t, (coreTurn_of_decode hp hd).trans ht, (exec_ends ht).bookkept⟩

/-- An error leaves every register and every byte of M as it was (R267). -/
theorem Ends.error {i : Instr} {s t : State} (h : Ends i s t) (hne : t.errcode ≠ .ok) :
    EndedWith { s with entropy := t.entropy, draws := t.draws } t t.errcode := by
  obtain ⟨u, c, rfl, -, hu⟩ := h
  exact hu hne ▸ endedWith_finish u hne

/-- A success leaves the registers that no rule writes as they were (R267). -/
theorem Ends.success {i : Instr} {s t : State} (h : Ends i s t) (hok : t.errcode = .ok) :
    t = { s with
      v := t.v, result := t.result, key := t.key, iv := t.iv, mem := t.mem, entropy := t.entropy,
      draws := t.draws, pend := none, done := true, errcode := .ok } ∧
    (∀ n : VReg, destV i ≠ some n → t.v[n] = s.v[n]) ∧ (writesResult i = false → t.result = s.result) := by
  obtain ⟨u, c, rfl, hw, -⟩ := h
  obtain rfl : c = .ok := hok
  refine ⟨u.complete_eq_update.trans ?_, hw.v, hw.result⟩
  exact congrArg (fun x : State => { x with pend := none, done := true, errcode := .ok }) hw.frame

end Sys2Proof.Machine
end

section
/-! PROOFS. The codes of each command (60_exceptions.md R263). -/

namespace Sys2Proof.Machine

/-- The codes that R263 lists for a command. -/
def codesOf : Instr → List Code
  | .kdf => [.ok, .busError]
  | .cbcenc => [.ok, .busError, .capacity, .overlap, .entropyError]
  | .cbcdec => [.ok, .invalidLength, .busError, .invalidPadding, .capacity, .overlap]
  | .nop | .gfmul _ _ | .sbox _ | .isbox _ | .mov _ _ | .sub _ _ | .isub _ _ | .rot _ _ | .irot _ _
  | .mix _ _ | .imix _ _ | .xor _ _ | .xkey _ _ | .xrk _ _ _ | .rkey _ _ | .round _ _ _
  | .iround _ _ _ | .encb _ _ | .decb _ _ | .valid => [.ok]

theorem ok_mem_codesOf (i : Instr) : .ok ∈ codesOf i := by
  cases i <;> exact List.mem_cons_self

theorem illegalCmd_not_mem_codesOf (i : Instr) : .illegalCmd ∉ codesOf i := by
  cases i <;> simp [codesOf]

theorem codesOf_eq_ok {i : Instr} (hk : i ≠ .kdf) (he : i ≠ .cbcenc) (hd : i ≠ .cbcdec) :
    codesOf i = [.ok] := by
  cases i with
  | kdf => exact absurd rfl hk
  | cbcenc => exact absurd rfl he
  | cbcdec => exact absurd rfl hd
  | _ => rfl

/-- The checks of CBCENC before its draw (46_cbc.md R225). -/
theorem cbcencCheck_mem (P : Params) (s : State) :
    cbcencCheck P s ∈ [Code.ok, .busError, .capacity, .overlap] := by
  rcases cbcencCheck_cases P s with
    ⟨-, hc⟩ | ⟨-, ⟨-, hc⟩ | ⟨-, ⟨-, hc⟩ | ⟨-, ⟨-, hc⟩ | ⟨-, hc⟩⟩⟩⟩ <;> simp [hc]

theorem kdfUnder_code (P : Params) (s : State) : (kdfUnder P s).errcode ∈ codesOf .kdf := by
  rcases kdfUnder_cases P s with ⟨-, h⟩ | ⟨-, -, h⟩ <;> simp [h, codesOf]

theorem cbcencUnder_code (P : Params) (s : State) : (cbcencUnder P s).errcode ∈ codesOf .cbcenc := by
  rcases cbcencUnder_cases P s with ⟨-, h⟩ | ⟨-, -, h⟩ | ⟨ivv, -, -, h⟩ <;> rw [h]
  · exact List.mem_append_left [.entropyError] (cbcencCheck_mem P s)
  · simp [codesOf]
  · exact ok_mem_codesOf .cbcenc

theorem cbcdecUnder_code (P : Params) (s : State) : (cbcdecUnder P s).errcode ∈ codesOf .cbcdec := by
  rcases cbcdecUnder_cases P s with ⟨c, hc, h⟩ | ⟨p, -, h⟩ <;> rw [h]
  · rcases cbcdecCheck_error hc with rfl | rfl | rfl | rfl | rfl <;> simp [codesOf]
  · exact ok_mem_codesOf .cbcdec

/-- Every command ends with one of its codes. -/
theorem exec_code {i : Instr} {s t : State} (h : exec i s = .next t) : t.errcode ∈ codesOf i := by
  obtain ⟨t', he, hc⟩ := exec_cases i s
  obtain rfl : t' = t := Host.Outcome.next.inj (he.symm.trans h)
  rcases hc with ⟨-, rfl⟩ | ⟨vd, b, -, rfl⟩ | ⟨x, -, -, -, rfl⟩ | ⟨rfl, rfl⟩ | ⟨rfl, rfl⟩ | ⟨rfl, rfl⟩
  · exact ok_mem_codesOf i
  · exact ok_mem_codesOf i
  · exact ok_mem_codesOf i
  · exact kdfUnder_code ..
  · exact cbcencUnder_code ..
  · exact cbcdecUnder_code ..

/-- The core's turn ends with ILLEGAL_CMD for an illegal word and for no other (30_encoding.md R85). -/
theorem coreTurn_illegalCmd_iff {s t : State} {w : Word} (hp : s.pend = some w)
    (h : coreTurn s = .next t) : decode w = none ↔ t.errcode = .illegalCmd := by
  cases hd : decode w with
  | none =>
    obtain rfl := Host.Outcome.next.inj ((coreTurn_of_illegal hp hd).symm.trans h)
    exact iff_of_true rfl rfl
  | some i =>
    have hmem := exec_code ((coreTurn_of_decode hp hd).symm.trans h)
    exact iff_of_false nofun fun hc => illegalCmd_not_mem_codesOf i (hc ▸ hmem)

end Sys2Proof.Machine
end

section
/-! PROOFS. The steps that stop (60_exceptions.md R270): the host's accesses to M alone. -/

namespace Sys2Proof.Machine

theorem exec_next (i : Instr) (s : State) : ∃ t, exec i s = .next t := by
  obtain ⟨t, h, -⟩ := exec_cases i s
  exact ⟨t, h⟩

theorem coreTurn_next (s : State) : ∃ t, coreTurn s = .next t := by
  rcases coreTurn_cases s with ⟨-, h⟩ | ⟨w, -, -, h⟩ | ⟨w, i, -, -, h⟩ <;> rw [h]
  · exact ⟨_, rfl⟩
  · exact ⟨_, rfl⟩
  · exact exec_next i s

/-- A step that answers no next state is the host's. -/
theorem step_eq_iff_of_stop {s : State} {o : Host.Outcome State Fault Refusal} (ho : ∀ t, o ≠ .next t) :
    step s = o ↔ ∃ rest a, s.inbox = .host a :: rest ∧ hostTurn a (s.setInbox rest) = o := by
  constructor
  · rintro rfl
    rcases turn_cases s with ⟨rest, hc⟩ | ⟨a, rest, ha⟩ | ⟨rest, hr⟩
    · obtain ⟨t, ht⟩ := coreTurn_next (s.setInbox rest)
      exact absurd ((step_core hc).trans ht) (ho t)
    · exact ⟨rest, a, ha, (step_turn ha).symm⟩
    · exact absurd (step_turn hr) (ho _)
  · rintro ⟨rest, a, ha, h⟩
    exact (step_turn ha).trans h

/-- A host access to `n` bytes of M at `a` that ends in `t`, where the ranges `rs` are closed to it. -/
def guardedAccess (P : Params) (rs : List (Nat × Nat)) (a n : Nat) (t : State) :
    Host.Outcome State Fault Refusal :=
  if ¬ InRange P a n then .refused .hostOutsideM
  else if meetsRange rs a n then .fault .bufferHazard
  else .next t

/-- To a read the ranges to be written are closed (93_implementation_defined.md I10). -/
theorem hostReadMem_eq (P : Params) (a n : Nat) (s : State) : hostReadMem P a n s =
    guardedAccess P s.rangesToWrite a n (s.respond (.bytes (s.mem.readBytes a n))) := rfl

/-- To a write all the ranges in use are closed (70_reset_and_hazards.md R298). -/
theorem hostWriteMem_eq (P : Params) (a : Nat) (bs : Bytes) (s : State) : hostWriteMem P a bs s =
    guardedAccess P s.rangesInUse a bs.length ((s.writeM a bs).respond .ack) := rfl

theorem guardedAccess_fault_iff {P : Params} {rs : List (Nat × Nat)} {a n : Nat} {t : State} {f : Fault} :
    guardedAccess P rs a n t = .fault f ↔
      f = .bufferHazard ∧ InRange P a n ∧ ∃ r ∈ rs, Overlap a n r.1 r.2 := by
  unfold guardedAccess
  split
  · next hout => exact ⟨nofun, fun ⟨_, hin, _⟩ => absurd hin hout⟩
  · next hin =>
    split
    · next hmeets =>
      exact ⟨fun h => ⟨(Host.Outcome.fault.inj h).symm, not_not.1 hin, meetsRange_iff.1 hmeets⟩,
        fun ⟨hf, _⟩ => congrArg _ hf.symm⟩
    · next hfree => exact ⟨nofun, fun ⟨_, _, hmeets⟩ => absurd (meetsRange_iff.2 hmeets) hfree⟩

theorem guardedAccess_refused_iff {P : Params} {rs : List (Nat × Nat)} {a n : Nat} {t : State}
    {r : Refusal} : guardedAccess P rs a n t = .refused r ↔ r = .hostOutsideM ∧ ¬ InRange P a n := by
  unfold guardedAccess
  split
  · next hout =>
    exact ⟨fun h => ⟨(Host.Outcome.refused.inj h).symm, hout⟩, fun ⟨hr, _⟩ => congrArg _ hr.symm⟩
  · next hin => split <;> exact ⟨nofun, fun ⟨_, hout⟩ => absurd hout hin⟩

/-- A host turn stops only by an access to M. -/
theorem hostTurn_eq_iff_of_stop {a : HostAccess} {s : State} {o : Host.Outcome State Fault Refusal}
    (ho : ∀ t, o ≠ .next t) : hostTurn a s = o ↔
      (∃ b bs, a = .writeMem b bs ∧ hostWriteMem Config.params b bs s = o) ∨
        ∃ b n, a = .readMem b n ∧ hostReadMem Config.params b n s = o := by
  cases a with
  | readReg p n => exact ⟨fun h => absurd h.symm (ho _), by simp⟩
  | writeReg p n x => exact ⟨fun h => absurd h.symm (ho _), by simp⟩
  | readMem b n => simp [hostTurn]
  | writeMem b bs => simp [hostTurn]

/-- A step stops exactly where a host access to M does. -/
theorem step_stops_iff {s : State} {o : Host.Outcome State Fault Refusal} (ho : ∀ t, o ≠ .next t) :
    step s = o ↔ ∃ rest,
      (∃ b bs, s.inbox = .host (.writeMem b bs) :: rest ∧
        hostWriteMem Config.params b bs (s.setInbox rest) = o) ∨
      ∃ b n, s.inbox = .host (.readMem b n) :: rest ∧
        hostReadMem Config.params b n (s.setInbox rest) = o := by
  rw [step_eq_iff_of_stop ho]
  refine exists_congr fun rest => ?_
  constructor
  · rintro ⟨a, ha, h⟩
    rcases (hostTurn_eq_iff_of_stop ho).1 h with ⟨b, bs, rfl, h⟩ | ⟨b, n, rfl, h⟩
    · exact .inl ⟨b, bs, ha, h⟩
    · exact .inr ⟨b, n, ha, h⟩
  · rintro (⟨b, bs, ha, h⟩ | ⟨b, n, ha, h⟩)
    · exact ⟨_, ha, h⟩
    · exact ⟨_, ha, h⟩

end Sys2Proof.Machine
end

section
/-! PROOFS. The obligations of 60_exceptions.md. -/

namespace Sys2Proof

open Machine Claims

/-- Settles O30: the checks of CBCENC and CBCDEC in their order, KDF's one check, and the illegal word. -/
theorem firstFailingCheckIsReported : Obligations.FirstFailingCheckIsReported := by
  obtain ⟨-, hkdf⟩ := kdfCommand
  refine ⟨fun P s => ⟨cbcencErrors P s, cbcdecErrors P s⟩, fun s hbad => ?_, fun s w rest hc hp hd => ?_,
    fun _ => ⟨rfl, rfl⟩⟩
  · obtain ⟨hbusError, -⟩ := hkdf s
    exact hbusError (not_and_or.2 hbad)
  · rw [step_core hc]
    exact ⟨_, coreTurn_of_illegal (s := s.setInbox rest) hp hd, endedWith_finish _ nofun⟩

/-- Settles O35: every command, and an illegal word, ends with the bookkeeping. -/
theorem everyPendingCommandCompletes : Obligations.EveryPendingCommandCompletes := by
  refine ⟨fun s w rest hp hc => ?_, fun s rest hp hc => ?_⟩
  · rw [step_core hc]
    exact coreTurn_bookkept (s := s.setInbox rest) hp
  · rw [step_core hc]
    exact coreTurn_of_idle (s := s.setInbox rest) hp

/-- Settles O36: an error writes nothing, a success what the rule of the command names. -/
theorem allOrNothing : Obligations.AllOrNothing := by
  intro i s t hwf h
  have hends := exec_ends h
  refine ⟨hends.error, fun hok => ?_⟩
  obtain ⟨hframe, hv, hresult⟩ := hends.success hok
  obtain ⟨hkey, hiv, -⟩ := exec_key_iv_ie_done h
  have hmem := exec_mem h
  refine ⟨hframe, hv, hresult, fun hi => ?_, fun he hd => ⟨?_, ?_⟩, fun hi => exec_source hi h, fun a ha => ?_⟩
  · exact hkey.resolve_right fun hk => hi hk.1
  · exact hiv.resolve_right fun hc => hc.1.elim he hd
  · exact hmem.resolve_right fun hc => hc.1.elim he hd
  · rcases hmem with hm | ⟨-, -, hst⟩
    · rw [hm]
    · exact not_not.1 fun hne => ha (hst.insideRange hwf hne)

/-- Settles O37: the lists of R263, none of which holds ILLEGAL_CMD. -/
theorem codesOfEachCommand : Obligations.CodesOfEachCommand := by
  refine ⟨fun s t w rest hc hp h => ?_, fun i s t h => ?_⟩
  · rw [step_core hc] at h
    exact coreTurn_illegalCmd_iff (s := s.setInbox rest) hp h
  · have hmem := exec_code h
    refine ⟨fun hk he hd => ?_, ?_, ?_, ?_⟩
    · rw [codesOf_eq_ok hk he hd] at hmem
      exact List.mem_singleton.1 hmem
    · rintro rfl
      simpa [codesOf] using hmem
    · rintro rfl
      simpa [codesOf] using hmem
    · rintro rfl
      simpa [codesOf] using hmem

/-- Settles O38: the three ends of CBCENC, of which the last two draw. -/
theorem oneDrawPerCbcenc : Obligations.OneDrawPerCbcenc := by
  refine ⟨?_, fun _ => rfl, fun i s t hi h => (exec_source hi h).symm⟩
  rintro P s _ rfl
  rw [← cbcencCheck_ok_iff]
  rcases cbcencUnder_cases P s with ⟨hc, h⟩ | ⟨hc, hd, h⟩ | ⟨ivv, hc, hd, h⟩ <;> rw [h]
  · have hne : cbcencCheck P s ≠ .entropyError := fun he => by simpa [he] using cbcencCheck_mem P s
    exact ⟨fun hok => absurd hok hc, fun _ => ⟨rfl, rfl⟩, iff_of_false hne fun hok => hc hok.1⟩
  · exact ⟨fun _ => ⟨rfl, rfl⟩, fun hno => absurd hc hno, iff_of_true rfl ⟨hc, hd⟩⟩
  · refine ⟨fun _ => ⟨rfl, rfl⟩, fun hno => absurd hc hno, iff_of_false nofun fun hok => ?_⟩
    exact absurd (hd.symm.trans hok.2) nofun

/-- Settles O41: only the host's accesses to M stop, each by its own range. -/
theorem onlyHostAccessesStop : Obligations.OnlyHostAccessesStop := by
  refine ⟨fun s f => ?_, fun s r => ?_, exec_next⟩
  · cases f
    simp only [step_stops_iff (o := .fault .bufferHazard) (fun _ => nofun), hostWriteMem_eq, hostReadMem_eq,
      guardedAccess_fault_iff, pendingRanges_setInbox, true_and]
  · simp only [step_stops_iff (o := .refused r) (fun _ => nofun), hostWriteMem_eq, hostReadMem_eq,
      guardedAccess_refused_iff]
    by_cases hr : r = .hostOutsideM
    · simp only [hr, true_and]
    · simp only [hr, false_and, and_false, exists_false, or_self]

end Sys2Proof
end

section
/-! PROOFS. What either reset leaves (70_reset_and_hazards.md R290, R291), and the host accesses to M
that the buffer hazard stops (R298). -/

namespace Sys2Proof.Machine

/-- The hard and the soft reset leave the same registers; only the answer to the host differs. -/
theorem step_reset {s : State} {ts : List Turn} {x : Word} (h : s.inbox = .hardReset :: ts ∨
    (s.inbox = .host (.writeReg 0x04 32 x) :: ts ∧ x.getLsbD 1 = true)) :
    ∃ r, step s = .next ((s.setInbox ts).resetRegisters.respond r) := by
  rcases h with hin | ⟨hin, hx⟩
  · exact ⟨s.resp, step_turn hin⟩
  · exact ⟨.ack, step_writeCtrl_reset hin hx⟩

/-- A host write of M faults where it meets either range of a command that uses two. -/
theorem step_writeMem_hazard {s : State} {a : Nat} {bs : Bytes} {ts : List Turn} {r r' : Nat × Nat}
    (hin : s.inbox = .host (.writeMem a bs) :: ts) (hr : InRange Config.params a bs.length)
    (huse : s.rangesInUse = [r, r'])
    (hmeets : Overlap a bs.length r.1 r.2 ∨ Overlap a bs.length r'.1 r'.2) :
    step s = .fault .bufferHazard := by
  obtain ⟨hfault, -⟩ := onlyHostAccessesStop
  refine (hfault s _).2 ⟨rfl, ts, .inl ⟨a, bs, hin, hr, ?_⟩⟩
  rw [huse]
  rcases hmeets with h | h
  · exact ⟨r, by simp, h⟩
  · exact ⟨r', by simp, h⟩

/-- A host read of M faults where it meets the range a command is to write. -/
theorem step_readMem_hazard {s : State} {a n : Nat} {ts : List Turn} {r : Nat × Nat}
    (hin : s.inbox = .host (.readMem a n) :: ts) (hr : InRange Config.params a n)
    (hwrite : s.rangesToWrite = [r]) (hmeets : Overlap a n r.1 r.2) : step s = .fault .bufferHazard := by
  obtain ⟨hfault, -⟩ := onlyHostAccessesStop
  refine (hfault s _).2 ⟨rfl, ts, .inr ⟨a, n, hin, hr, r, ?_, hmeets⟩⟩
  exact hwrite ▸ List.mem_singleton_self r

/-- Only CBCENC and CBCDEC have a DST range. -/
theorem writeRanges_eq_nil {i : Instr} (he : i ≠ .cbcenc) (hd : i ≠ .cbcdec) (s : State) :
    writeRanges i s = [] := by
  cases i with
  | cbcenc | cbcdec => contradiction
  | _ => rfl

/-- Only KDF, CBCENC and CBCDEC use M. -/
theorem usedRanges_eq_nil {i : Instr} (hk : i ≠ .kdf) (he : i ≠ .cbcenc) (hd : i ≠ .cbcdec) (s : State) :
    usedRanges i s = [] := by
  cases i with
  | kdf | cbcenc | cbcdec => contradiction
  | _ => rfl

end Sys2Proof.Machine
end

section
/-! PROOFS. The obligations of 70_reset_and_hazards.md. -/

namespace Sys2Proof

open Machine

/-- Settles O56: but for the host's answer both resets give one state; the laws of its fields give its words. -/
theorem resetValues : Obligations.ResetValues := by
  intro s ts x h
  obtain ⟨r, hstep⟩ := step_reset h
  refine ⟨_, hstep, ?_⟩
  simp [State.busy, State.ctrlWord, State.statusWord, State.errcodeWord, Code.toNat, State.irq, State.readWin,
    idWord]

/-- Settles O58: the ranges in use are those of the pending command, two for each that uses M. -/
theorem bufferHazard : Obligations.BufferHazard := by
  intro s w i a ts hp hd
  have huse : s.rangesInUse = usedRanges i s := pendingRanges_some hp hd usedRanges
  have hwrite : s.rangesToWrite = writeRanges i s := pendingRanges_some hp hd writeRanges
  refine ⟨fun bs hin hr => ⟨?_, ?_, ?_, fun hfree => ?_⟩, fun n hin hr => ⟨?_, ?_, fun hfree => ?_⟩,
    fun he hc => writeRanges_eq_nil he hc s, fun hk he hc => usedRanges_eq_nil hk he hc s⟩
  · rintro rfl
    exact step_writeMem_hazard hin hr huse
  · rintro rfl
    exact step_writeMem_hazard hin hr huse
  · rintro rfl
    exact step_writeMem_hazard hin hr huse
  · exact step_writeMem_free hin hr (huse ▸ hfree)
  · rintro rfl
    exact step_readMem_hazard hin hr hwrite
  · rintro rfl
    exact step_readMem_hazard hin hr hwrite
  · exact step_readMem_free hin hr (hwrite ▸ hfree)

end Sys2Proof
end
